-- ==== Sys2Proof/Word.lean ====
section
/-! DEFINITION. The bit-vector types of the block (spec 00_scope R5, R7). -/

namespace Sys2Proof

/-- A byte: 8 bits, unsigned (R7). -/
abbrev Byte := BitVec 8

/-- A 32-bit register value: `W_CRC` and `W_LEN` of R5 are both 32. -/
abbrev Word := BitVec 32

/-- The command word `CMD[9:0]` (30_encoding R55). -/
abbrev CmdWord := BitVec 10

/-- The response word `RSP[11:0]` (30_encoding R60). -/
abbrev RspWord := BitVec 12

/-- The facet bits `FACETS[4:0]` (10_state R19). -/
abbrev FacetBits := BitVec 5

end Sys2Proof
end

