-- ==== Sys2Proof/Syntax.lean ====
section
/-! DEFINITION. The commands of the block: one constructor per row of spec/opcode_table.json. -/

namespace Sys2Proof

/-- A command (spec 30_encoding R55 to R59). -/
inductive Instr where
  /-- `START.CRC`, 0x000 (R72). -/
  | startCrc
  /-- `START.TAG`, 0x001 (R73). -/
  | startTag
  /-- `START.CHUNK`, 0x002 (R74). -/
  | startChunk
  /-- `START.CONT`, 0x003 (R75). -/
  | startCont
  /-- `PUSH b`, 0x100 + b (R76). -/
  | push (b : Byte)
  /-- `END`, 0x200 (R77). -/
  | endBuffer
  /-- `RESERVED.START`, 0x004 to 0x0FF: `x` is `CMD[7:2]`, not zero, `mode` is `CMD[1:0]` (R59, R80). -/
  | reservedStart (x : BitVec 6) (mode : BitVec 2)
  /-- `RESERVED.END`, 0x201 to 0x2FF: `x` is `CMD[7:0]`, not zero (R59, R80). -/
  | reservedEnd (x : Byte)
  /-- `RESERVED.OP3`, 0x300 to 0x3FF: `x` is `CMD[7:0]` (R59, R80). -/
  | reservedOp3 (x : Byte)
  deriving DecidableEq, Repr

end Sys2Proof
end

