-- ==== Sys2Proof/WellFormed.lean ====
section
/-! DEFINITION. Which command terms a command word can carry. -/

namespace Sys2Proof

/-- The extra conditions of the reserved rows (spec 30_encoding R59, R66): `CMD[7:2] != 0` for
`RESERVED.START` and `CMD[7:0] != 0` for `RESERVED.END`. Every other term is a legal encoding. -/
def Instr.wellFormed : Instr → Bool
  | .startCrc => true
  | .startTag => true
  | .startChunk => true
  | .startCont => true
  | .push _ => true
  | .endBuffer => true
  | .reservedStart x _ => x != 0
  | .reservedEnd x => x != 0
  | .reservedOp3 _ => true

end Sys2Proof
end

