-- ==== Sys2Proof/Decode.lean ====
section
/-! DEFINITION. Decoding and encoding of the command word (spec 30_encoding R55 to R59, R66). -/

namespace Sys2Proof

/-- Why a number is no command word. -/
inductive DecodeReject where
  /-- The number needs more than the ten bits of the command port (R55). Raised by `decodeNat`; safe: no
  such value can stand on the port. -/
  | widerThanPort
  deriving DecidableEq, Repr

/-- `CMD[9:8]` (R55). -/
def opField (w : CmdWord) : BitVec 2 := w.extractLsb' 8 2

/-- `CMD[7:0]` (R55). -/
def dataField (w : CmdWord) : Byte := w.extractLsb' 0 8

/-- `CMD[7:2]`, which must be zero in a `START` (R55). -/
def startZeroField (w : CmdWord) : BitVec 6 := w.extractLsb' 2 6

/-- `CMD[1:0]`, the mode of a `START` (R55). -/
def startModeField (w : CmdWord) : BitVec 2 := w.extractLsb' 0 2

/-- The `START` command of a mode field: `00 CRC`, `01 TAG`, `10 CHUNK`, `11 CONT` (R55, R56). -/
def decodeStart (mode : BitVec 2) : Instr :=
  if mode = 0b00#2 then .startCrc
  else if mode = 0b01#2 then .startTag
  else if mode = 0b10#2 then .startChunk
  else .startCont

/-- The command a ten-bit command word stands for (R55 to R59). Every word has a meaning: the reserved words
decode to the reserved commands, which the block refuses. -/
def decode (w : CmdWord) : Instr :=
  if opField w = 0b00#2 then
    if startZeroField w = 0 then decodeStart (startModeField w)
    else .reservedStart (startZeroField w) (startModeField w)
  else if opField w = 0b01#2 then .push (dataField w)
  else if opField w = 0b10#2 then
    if dataField w = 0 then .endBuffer else .reservedEnd (dataField w)
  else .reservedOp3 (dataField w)

/-- Decoding of any number: one of at least eleven bits is rejected, since no command word carries it.
DESIGN CHOICE, safe: notes/assumptions/6.md. -/
def decodeNat (n : Nat) : Except DecodeReject Instr :=
  if n < 1024 then .ok (decode (BitVec.ofNat 10 n)) else .error .widerThanPort

/-- The command word of a command, from the encodings of R56 to R59. -/
def encode : Instr → CmdWord
  | .startCrc => 0x000
  | .startTag => 0x001
  | .startChunk => 0x002
  | .startCont => 0x003
  | .push b => 0b01#2 ++ b
  | .endBuffer => 0x200
  | .reservedStart x mode => 0b00#2 ++ x ++ mode
  | .reservedEnd x => 0b10#2 ++ x
  | .reservedOp3 x => 0b11#2 ++ x

/-- One row of the opcode table: a word belongs to it when its masked bits equal `pattern`. -/
structure OpcodeRow where
  mnemonic : String
  pattern  : CmdWord
  mask     : CmdWord
  deriving DecidableEq, Repr

/-- The nine rows of spec/opcode_table.json in file order; the first match wins (R66). -/
def opcodeTable : List OpcodeRow :=
  [ ⟨"START.CRC", 0x000, 0x3FF⟩, ⟨"START.TAG", 0x001, 0x3FF⟩, ⟨"START.CHUNK", 0x002, 0x3FF⟩,
    ⟨"START.CONT", 0x003, 0x3FF⟩, ⟨"PUSH", 0x100, 0x300⟩, ⟨"END", 0x200, 0x3FF⟩,
    ⟨"RESERVED.START", 0x000, 0x300⟩, ⟨"RESERVED.END", 0x200, 0x300⟩, ⟨"RESERVED.OP3", 0x300, 0x300⟩ ]

/-- The first row of the table that matches a command word (R66). -/
def OpcodeRow.firstMatch (w : CmdWord) : Option OpcodeRow :=
  opcodeTable.find? fun row => w &&& row.mask == row.pattern

/-- The table's mnemonic of a command. -/
def Instr.mnemonic : Instr → String
  | .startCrc => "START.CRC"
  | .startTag => "START.TAG"
  | .startChunk => "START.CHUNK"
  | .startCont => "START.CONT"
  | .push _ => "PUSH"
  | .endBuffer => "END"
  | .reservedStart _ _ => "RESERVED.START"
  | .reservedEnd _ => "RESERVED.END"
  | .reservedOp3 _ => "RESERVED.OP3"

/-- The instruction of a table word of `nbits` bits: bits above `nbits` are 0, and a value that the ten-bit
port cannot carry is none (notes/assumptions/6.md). -/
def decodeTableWord (nbits w : Nat) : Option Instr :=
  match decodeNat (w % 2 ^ nbits) with
  | .ok i => some i
  | .error _ => none

end Sys2Proof
end

