-- ==== Sys2Proof/Config.lean ====
section
/-! DEFINITION. The parameters of the block (spec 00_scope R5), the open parameter `SIG` (R6) and the
values the spec leaves unspecified after reset (10_state R26). -/

namespace Sys2Proof.Config

/-- `POLY`: the generator polynomial in its msb-first form, the `x^32` term implied (R5). -/
def poly : Word := 0x04C11DB7

/-- `POLY_R`: the constant of the lsb-first form (R5, 41_crc R92). -/
def polyReflected : Word := 0xEDB88320

/-- `INIT`: the initial value of the CRC register (R5). -/
def crcInit : Word := 0xFFFFFFFF

/-- `XOROUT`: the final xor (R5). -/
def crcXorOut : Word := 0xFFFFFFFF

/-- The eight bytes of a container signature, `SIG[0]` first on the wire (R6); `L_SIG = 8` (R5). -/
abbrev Signature := Vector Byte 8

/-- `SIG`: the open parameter (R6, U1). It has no body, so nothing can be proved about its bytes; it is
only the value `State.reset` gives the field `sig`, and every meaning reads that field.
DESIGN CHOICE, safe: notes/assumptions/3.md. -/
opaque sig : Signature

/-- The `n`-th value drawn for `CRC` by a reset (R26, U2: any value).
DESIGN CHOICE: notes/assumptions/4.md. -/
opaque resetCrc : Nat → Word

/-- The `n`-th value drawn for `LEN` by a reset (R26). DESIGN CHOICE: notes/assumptions/4.md. -/
opaque resetLen : Nat → Word

/-- The `n`-th value drawn for `TYPE` by a reset (R26). DESIGN CHOICE: notes/assumptions/4.md. -/
opaque resetType : Nat → Word

/-- The `n`-th value drawn for `CSUM` by a reset (R26). DESIGN CHOICE: notes/assumptions/4.md. -/
opaque resetCsum : Nat → Word

/-- The `n`-th value drawn for `CNT` by a reset (R26). DESIGN CHOICE: notes/assumptions/4.md. -/
opaque resetCnt : Nat → Word

/-- The `n`-th value drawn for `FACETS` by a reset (R26). DESIGN CHOICE: notes/assumptions/4.md. -/
opaque resetFacets : Nat → FacetBits

end Sys2Proof.Config
end

