-- ==== Sys2Proof/Machine/State.lean ====
section
/-! DEFINITION. The state of the block: the nine registers of spec 10_state R10 and, beside them, what the
spec makes a parameter or the environment of the step function (R22): `SIG`, what the host drives, what the
block answered. -/

namespace Sys2Proof.Machine

/-- `MODE`: the operation begun by the last `START` (10_state R11). -/
inductive Mode where
  | crc | tag | chunk | cont
  deriving DecidableEq, Repr

/-- `PHASE`: the sequencing state (10_state R12). -/
inductive Phase where
  | idle | sig | len | type | payload | csum | stream | done | err
  deriving DecidableEq, Repr

/-- The five error kinds an operation can end with (60_exceptions R196). -/
inductive ErrorKind where
  | signatureError | framingError | reservedBitError | invalidByteError | checksumError
  deriving DecidableEq, Repr

/-- The six values of the register `ERR` (10_state R13); 6 and 7 are never written, so they are no values. -/
inductive Err where
  | none | signatureError | framingError | reservedBitError | invalidByteError | checksumError
  deriving DecidableEq, Repr

/-- The nine registers, the complete architectural state of the block (10_state R10). -/
structure Regs where
  /-- `MODE` (R11). -/
  mode   : Mode
  /-- `PHASE` (R12). -/
  phase  : Phase
  /-- `ERR` (R13). -/
  err    : Err
  /-- `CRC`: the accumulator, lsb-first form, before the final xor (R14). -/
  crc    : Word
  /-- `LEN`: the declared length of the current chunk (R15). -/
  len    : Word
  /-- `TYPE`: the type tag, byte 0 at bits 31:24 (R16). -/
  type   : Word
  /-- `CSUM`: the checksum field as received (R17). -/
  csum   : Word
  /-- `CNT`: bytes still expected in the current phase (R18). -/
  cnt    : Word
  /-- `FACETS`: bit 0 critical, 1 public, 2 reserved-bit-valid, 3 safe-to-copy, 4 valid (R19). -/
  facets : FacetBits
  deriving DecidableEq, Repr

/-- The registers after the `n`-th reset (10_state R26): the control registers as the spec says, the six
others drawn. DESIGN CHOICE: notes/assumptions/4.md. -/
def Regs.afterReset (n : Nat) : Regs :=
  { mode := .crc, phase := .idle, err := .none,
    crc := Config.resetCrc n, len := Config.resetLen n, type := Config.resetType n,
    csum := Config.resetCsum n, cnt := Config.resetCnt n, facets := Config.resetFacets n }

/-- The event of an accepted command's response (00_scope R9, 30_encoding R60). -/
inductive Event where
  | none
  | payload (b : Byte)
  | chunk
  | done
  | err (e : ErrorKind)
  deriving DecidableEq, Repr

/-- The response to a command: `ACK` with an event, or `REFUSED`, whose event is always `NONE` (R60). -/
inductive Response where
  | ack (e : Event)
  | refused
  deriving DecidableEq, Repr

/-- What the host drives in one step: the reset input (70_reset R220) and, on the command port, at most one
command word (40_commands R70). DESIGN CHOICE: notes/assumptions/1.md. -/
structure Input where
  reset   : Bool
  command : Option CmdWord
  deriving DecidableEq, Repr

/-- The block and its surroundings: the registers are the block's whole state (R10), the other fields are the
model's own, for `exec` takes nothing but a State. -/
structure State where
  /-- The nine registers (R10). -/
  regs   : Regs
  /-- The parameter `SIG` of this instance; no step writes it (00_scope R6, 70_reset R222). -/
  sig    : Config.Signature
  /-- What the host drives in the steps to come, the next step first (notes/assumptions/1.md). -/
  input  : List Input
  /-- The response of the step just taken; none when it executed no command (notes/assumptions/2.md). -/
  rsp    : Option Response
  /-- How many resets have drawn the unspecified registers (notes/assumptions/4.md). -/
  resets : Nat
  deriving DecidableEq, Repr

/-- Why a step stops with a fault: never. "There is no fault, trap, hang or stuck state" (40_commands R82), so
no constructor exists and no meaning can raise one; safe. -/
inductive Fault where
  deriving DecidableEq, Repr

/-- Why a step has no meaning. -/
inductive Refusal where
  /-- Raised only by an arm of `exec` whose command has no meaning yet (none is left); safe. -/
  | notModelled (mnemonic : String)
  deriving DecidableEq, Repr

/-- The machine right after reset (10_state R26, 70_reset R220): nothing driven yet, no response (a reset
produces none), the first draw taken. -/
def State.reset : State :=
  { regs := Regs.afterReset 0, sig := Config.sig, input := [], rsp := none, resets := 1 }

end Sys2Proof.Machine
end

