-- ==== Sys2Proof/Machine/Operands.lean ====
section
/-! DEFINITION. The operands and multi-byte fields of the block: the type tag, big-endian fields (spec 20_memory
R33), the index of a signature byte (10_state R18), and the numeric codes of 30_encoding R62. -/

namespace Sys2Proof.Machine

/-- A type tag: "exactly 4 bytes", `t0` first on the wire; equality is byte-wise (42_typetag R106). -/
structure TypeTag where
  t0 : Byte
  t1 : Byte
  t2 : Byte
  t3 : Byte
  deriving DecidableEq, Repr

/-- The four bytes in wire order. -/
def TypeTag.bytes (t : TypeTag) : List Byte := [t.t0, t.t1, t.t2, t.t3]

/-- The tag held in `TYPE`: byte 0 at bits 31:24, byte 3 at bits 7:0 (10_state R16). -/
def TypeTag.ofWord (v : Word) : TypeTag :=
  { t0 := v.extractLsb' 24 8, t1 := v.extractLsb' 16 8, t2 := v.extractLsb' 8 8, t3 := v.extractLsb' 0 8 }

/-- The value of `TYPE` that holds a tag (10_state R16). -/
def TypeTag.toWord (t : TypeTag) : Word := t.t0 ++ t.t1 ++ t.t2 ++ t.t3

/-- `be32(v)`: the four bytes of a word, most significant first (00_scope R7). -/
def be32 (v : Word) : List Byte :=
  [v.extractLsb' 24 8, v.extractLsb' 16 8, v.extractLsb' 8 8, v.extractLsb' 0 8]

/-- `unbe32(b0 b1 b2 b3)`: the word whose most significant byte is the first (20_memory R33). -/
def unbe32 (b0 b1 b2 b3 : Byte) : Word := b0 ++ b1 ++ b2 ++ b3

/-- `REG[23:0] ++ b`: one byte shifted into a 4-byte field (30_encoding R53). -/
def shiftIn (reg : Word) (b : Byte) : Word := reg.extractLsb' 0 24 ++ b

/-- `SIG[8 - CNT]`, the signature byte expected next (10_state R18, 44_container R160). In the invariant's range
`1 <= CNT <= 8` it exists; outside it there is none (notes/assumptions/8.md). -/
def expectedSigByte (sig : Config.Signature) (cnt : Word) : Option Byte := sig[(8 - cnt).toNat]?

/-- `MODE[1:0]` (30_encoding R62). -/
def Mode.code : Mode → BitVec 2
  | .crc => 0
  | .tag => 1
  | .chunk => 2
  | .cont => 3

/-- `PHASE[3:0]` (30_encoding R62). -/
def Phase.code : Phase → BitVec 4
  | .idle => 0
  | .sig => 1
  | .len => 2
  | .type => 3
  | .payload => 4
  | .csum => 5
  | .stream => 6
  | .done => 7
  | .err => 8

/-- `ERR[2:0]` (30_encoding R62). -/
def Err.code : Err → BitVec 3
  | .none => 0
  | .signatureError => 1
  | .framingError => 2
  | .reservedBitError => 3
  | .invalidByteError => 4
  | .checksumError => 5

/-- The value of `ERR` that records an error kind (60_exceptions R196). -/
def ErrorKind.toErr : ErrorKind → Err
  | .signatureError => .signatureError
  | .framingError => .framingError
  | .reservedBitError => .reservedBitError
  | .invalidByteError => .invalidByteError
  | .checksumError => .checksumError

/-- The active phases (10_state R12). -/
def Phase.isActive : Phase → Bool
  | .sig => true
  | .len => true
  | .type => true
  | .payload => true
  | .csum => true
  | .stream => true
  | .idle => false
  | .done => false
  | .err => false

end Sys2Proof.Machine
end

