-- ==== Sys2Proof/Machine/Ops.lean ====
section
/-! DEFINITION. The operations the commands share: accepting, refusing, raising an error, beginning an operation,
reset. Each gives the registers after the command and its response. -/

namespace Sys2Proof.Machine

/-- The command is accepted with event `e` and leaves the registers `r` (00_scope R8, 40_commands R71). -/
def accept (e : Event) (r : Regs) : Regs × Response := (r, .ack e)

/-- The command is refused: no register changes, the response is `REFUSED` (40_commands R79). -/
def refuse (r : Regs) : Regs × Response := (r, .refused)

/-- `raise <Error>`, the one way an error is recorded (60_exceptions R200): `ERR` takes the code, `PHASE` becomes
`ERR`, the event is `ERR`. `r` holds the writes the command made before, which stand. -/
def raise (e : ErrorKind) (r : Regs) : Regs × Response :=
  ({ r with err := e.toErr, phase := .err }, .ack (.err e))

/-- The template of the four `START` commands: every register is written, none is read (10_state R27,
40_commands R72 to R75). This is also the only way out of phase `ERR` but reset (60_exceptions R205). -/
def beginOperation (mode : Mode) (phase : Phase) (cnt : Word) : Regs × Response :=
  accept .none
    { mode := mode, phase := phase, err := .none, crc := Config.crcInit, len := 0, type := 0, csum := 0,
      cnt := cnt, facets := 0 }

/-- The state after a command: its registers and its response (40_commands R70). -/
def State.answer (s : State) (a : Regs × Response) : Host.Outcome State Fault Refusal :=
  .next { s with regs := a.1, rsp := some a.2 }

/-- The reset input (70_reset R220): control registers to their reset values, the six others drawn anew, no
response. DESIGN CHOICE on the draw: notes/assumptions/4.md. -/
def State.applyReset (s : State) : State :=
  { s with regs := Regs.afterReset s.resets, rsp := none, resets := s.resets + 1 }

/-- A step in which the host issues no command: no register changes and there is no response.
DESIGN CHOICE: notes/assumptions/5.md. -/
def State.stayIdle (s : State) : State := { s with rsp := none }

end Sys2Proof.Machine
end

