-- ==== Sys2Proof/Machine/EndBuffer.lean ====
section
/-! DEFINITION. The command `END` (spec 40_commands R77). -/

namespace Sys2Proof.Machine

/-- `END` where the buffer may end: the operation is complete (41_crc R100, 44_container R166). -/
def endComplete (r : Regs) : Regs × Response := accept .done { r with phase := .done }

/-- `END` in phase `LEN`: complete at a record boundary of a container (44_container R166), else a field is cut
short (43_chunk_framer R139). -/
def endLen (r : Regs) : Regs × Response :=
  if r.mode = .cont ∧ r.cnt = 4 then endComplete r else raise .framingError r

/-- `END`: the dispatch on `PHASE` of 40_commands R77; refused in a resting phase (R79). -/
def endBuffer (r : Regs) : Regs × Response :=
  match r.phase with
  | .idle => refuse r
  | .done => refuse r
  | .err => refuse r
  | .stream => endComplete r
  | .sig => raise .signatureError r
  | .len => endLen r
  | .type => raise .framingError r
  | .payload => raise .framingError r
  | .csum => raise .framingError r

/-- The meaning of `END`. -/
def execEndBuffer (s : State) : Host.Outcome State Fault Refusal := s.answer (endBuffer s.regs)

end Sys2Proof.Machine
end

