-- ==== Sys2Proof/Machine/Crc.lean ====
section
/-! DEFINITION. The CRC unit: CRC-32/ISO-HDLC (spec 41_crc R90 to R97). -/

namespace Sys2Proof.Machine

/-- One of the eight shifts of `crc_step`: a logical right shift, then the constant when bit 0 was 1 (R93). -/
def crcShift (c : Word) : Word := if c.getLsbD 0 then (c >>> 1) ^^^ Config.polyReflected else c >>> 1

/-- `crc_step(c, b)`: the register's update on one byte, lsb-first form (R93). -/
def crcStep (c : Word) (b : Byte) : Word := crcShift^[8] (c ^^^ b.setWidth 32)

/-- The register after absorbing a message. -/
def crcAbsorb (c : Word) (m : List Byte) : Word := m.foldl crcStep c

/-- `CRC xor 0xFFFFFFFF`, the value shown as `CRC_OUT` (10_state R20). -/
def crcOut (c : Word) : Word := c ^^^ Config.crcXorOut

/-- `crc32(m)`: the checksum of a byte sequence (R94). -/
def crc32 (m : List Byte) : Word := crcOut (crcAbsorb Config.crcInit m)

/-- An entry of the byte table, `T[i] = crc_step(0, i)` (R97). -/
def crcTable (i : Byte) : Word := crcStep 0 i

/-- One of the eight shifts of the msb-first form: a left shift, then `POLY` when bit 31 was 1 (R90). -/
def crcShiftMsb (reg : Word) : Word := if reg.getLsbD 31 then (reg <<< 1) ^^^ Config.poly else reg <<< 1

/-- The msb-first form's update on one byte, the byte reflected into the top of the register (R90). -/
def crcStepMsb (reg : Word) (b : Byte) : Word := crcShiftMsb^[8] (reg ^^^ (b.reverse.setWidth 32 <<< 24))

/-- The parameter set read as a shift register: init, reflected in, reflected out, xor-out (R90). -/
def crc32Msb (m : List Byte) : Word :=
  (m.foldl crcStepMsb Config.crcInit).reverse ^^^ Config.crcXorOut

end Sys2Proof.Machine
end

