-- ==== Sys2Proof/Machine/Flags.lean ====
section
/-! DEFINITION. The type-tag checker: byte classes, legality, facets (spec 42_typetag R105 to R111). The facets
are the block's only flags (10_state R24). -/

namespace Sys2Proof.Machine

/-- `is_upper(b)`: the range test `0x41 <= b <= 0x5A`, not the test of bit 5 (R105, R111). -/
def isUpper (b : Byte) : Bool := 0x41#8 ≤ b && b ≤ 0x5A#8

/-- `is_lower(b)`: `0x61 <= b <= 0x7A` (R105). -/
def isLower (b : Byte) : Bool := 0x61#8 ≤ b && b ≤ 0x7A#8

/-- `is_alpha(b)` (R105). -/
def isAlpha (b : Byte) : Bool := isUpper b || isLower b

/-- `tag_check`: the reserved-bit test before the alphabetic test (R107). -/
def tagCheck (t : TypeTag) : Except ErrorKind Unit :=
  if !isUpper t.t2 then .error .reservedBitError
  else if !(isAlpha t.t0 && isAlpha t.t1 && isAlpha t.t2 && isAlpha t.t3) then .error .invalidByteError
  else .ok ()

/-- The facet "critical": byte 0 uppercase (R108). -/
def TypeTag.critical (t : TypeTag) : Bool := isUpper t.t0

/-- The facet "public": byte 1 uppercase (R108). -/
def TypeTag.isPublic (t : TypeTag) : Bool := isUpper t.t1

/-- The facet "reserved-bit-valid": byte 2 uppercase (R108). -/
def TypeTag.reservedValid (t : TypeTag) : Bool := isUpper t.t2

/-- The facet "safe-to-copy": byte 3 *lowercase* (R108, 90_conflicts C3). -/
def TypeTag.safeToCopy (t : TypeTag) : Bool := isLower t.t3

/-- `valid`: all four bytes alphabetic and byte 2 uppercase (R109). -/
def TypeTag.valid (t : TypeTag) : Bool :=
  isAlpha t.t0 && isAlpha t.t1 && isAlpha t.t2 && isAlpha t.t3 && isUpper t.t2

/-- The five bits written to `FACETS`, `valid` at bit 4 down to `critical` at bit 0 (10_state R19,
30_encoding R63). -/
def TypeTag.facets (t : TypeTag) : FacetBits :=
  BitVec.ofBool t.valid ++ BitVec.ofBool t.safeToCopy ++ BitVec.ofBool t.reservedValid ++
    BitVec.ofBool t.isPublic ++ BitVec.ofBool t.critical

end Sys2Proof.Machine
end

