-- ==== Sys2Proof/Machine/Push.lean ====
section
/-! DEFINITION. The command `PUSH b` (spec 40_commands R76), one operation per phase that accepts it. -/

namespace Sys2Proof.Machine

/-- `PUSH` in phase `STREAM` (41_crc R98). -/
def pushStream (b : Byte) (r : Regs) : Regs × Response :=
  accept .none { r with crc := crcStep r.crc b }

/-- `PUSH` in phase `SIG`: a matching byte counts down and the eighth opens the first record (44_container R160); a
wrong byte raises `SignatureError` with `CNT` not decremented (R161). -/
def pushSig (sig : Config.Signature) (b : Byte) (r : Regs) : Regs × Response :=
  if expectedSigByte sig r.cnt = some b then
    if r.cnt - 1 = 0 then accept .none { r with phase := .len, cnt := 4 }
    else accept .none { r with cnt := r.cnt - 1 }
  else raise .signatureError r

/-- `PUSH` in phase `LEN`: the fourth byte opens the type field and starts a fresh CRC (43_chunk_framer R131).
Every length up to `0xFFFFFFFF` is taken (30_encoding R47); no platform bound: U14, notes/assumptions/21.md. -/
def pushLen (b : Byte) (r : Regs) : Regs × Response :=
  if r.cnt - 1 = 0 then
    accept .none { r with len := shiftIn r.len b, phase := .type, cnt := 4, crc := Config.crcInit }
  else accept .none { r with len := shiftIn r.len b, cnt := r.cnt - 1 }

/-- The tag is legal and `MODE` is `TAG` (42_typetag R115). -/
def tagDone (r : Regs) : Regs × Response := accept .done { r with phase := .done }

/-- The tag is legal and a chunk follows it: an empty payload has no phase (43_chunk_framer R133). -/
def openPayload (r : Regs) : Regs × Response :=
  if r.len = 0 then accept .none { r with phase := .csum, cnt := 4 }
  else accept .none { r with phase := .payload, cnt := r.len }

/-- The fourth type byte has been shifted in: write `FACETS`, then check the tag (42_typetag R113). -/
def typeComplete (r : Regs) : Regs × Response :=
  let tag := TypeTag.ofWord r.type
  let r := { r with facets := tag.facets }
  match tagCheck tag with
  | .error e => raise e r
  | .ok () => if r.mode = .tag then tagDone r else openPayload r

/-- `PUSH` in phase `TYPE` (42_typetag R114). -/
def pushType (b : Byte) (r : Regs) : Regs × Response :=
  let r := { r with type := shiftIn r.type b, crc := crcStep r.crc b, cnt := r.cnt - 1 }
  if r.cnt = 0 then typeComplete r else accept .none r

/-- `PUSH` in phase `PAYLOAD`: the byte is absorbed and passed through (43_chunk_framer R134). -/
def pushPayload (b : Byte) (r : Regs) : Regs × Response :=
  if r.cnt - 1 = 0 then accept (.payload b) { r with crc := crcStep r.crc b, phase := .csum, cnt := 4 }
  else accept (.payload b) { r with crc := crcStep r.crc b, cnt := r.cnt - 1 }

/-- The fourth checksum byte has been shifted in: compare all 32 bits (43_chunk_framer R137). -/
def csumComplete (r : Regs) : Regs × Response :=
  if r.csum = crcOut r.crc then
    if r.mode = .chunk then accept .chunk { r with phase := .done }
    else accept .chunk { r with phase := .len, cnt := 4 }
  else raise .checksumError r

/-- `PUSH` in phase `CSUM` (43_chunk_framer R136). -/
def pushCsum (b : Byte) (r : Regs) : Regs × Response :=
  let r := { r with csum := shiftIn r.csum b, cnt := r.cnt - 1 }
  if r.cnt = 0 then csumComplete r else accept .none r

/-- `PUSH b`: the dispatch on `PHASE` of 40_commands R76; refused in a resting phase (R79). -/
def push (sig : Config.Signature) (b : Byte) (r : Regs) : Regs × Response :=
  match r.phase with
  | .idle => refuse r
  | .done => refuse r
  | .err => refuse r
  | .stream => pushStream b r
  | .sig => pushSig sig b r
  | .len => pushLen b r
  | .type => pushType b r
  | .payload => pushPayload b r
  | .csum => pushCsum b r

/-- The meaning of `PUSH b`. -/
def execPush (b : Byte) (s : State) : Host.Outcome State Fault Refusal := s.answer (push s.sig b s.regs)

end Sys2Proof.Machine
end

