-- ==== Sys2Proof/Machine/Reserved.lean ====
section
/-! DEFINITION. The reserved command words: refused in every phase, active phases included (spec 30_encoding R59,
40_commands R80). Their bits have no effect. -/

namespace Sys2Proof.Machine

/-- The meaning of `RESERVED.START`. -/
def execReservedStart (_x : BitVec 6) (_mode : BitVec 2) (s : State) : Host.Outcome State Fault Refusal :=
  s.answer (refuse s.regs)

/-- The meaning of `RESERVED.END`. -/
def execReservedEnd (_x : Byte) (s : State) : Host.Outcome State Fault Refusal := s.answer (refuse s.regs)

/-- The meaning of `RESERVED.OP3`. -/
def execReservedOp3 (_x : Byte) (s : State) : Host.Outcome State Fault Refusal := s.answer (refuse s.regs)

end Sys2Proof.Machine
end

