-- ==== Sys2Proof/Machine/Start.lean ====
section
/-! DEFINITION. The commands `START.<mode>` (spec 40_commands R72 to R75), accepted in every phase (R71, R84). -/

namespace Sys2Proof.Machine

/-- `START.CRC`: phase `STREAM`, `CNT` 0 (R72). -/
def startCrc : Regs × Response := beginOperation .crc .stream 0

/-- `START.TAG`: phase `TYPE`, 4 bytes expected (R73). -/
def startTag : Regs × Response := beginOperation .tag .type 4

/-- `START.CHUNK`: phase `LEN`, 4 bytes expected (R74). -/
def startChunk : Regs × Response := beginOperation .chunk .len 4

/-- `START.CONT`: phase `SIG`, 8 bytes expected (R75). -/
def startCont : Regs × Response := beginOperation .cont .sig 8

/-- The meaning of `START.CRC`. -/
def execStartCrc (s : State) : Host.Outcome State Fault Refusal := s.answer startCrc

/-- The meaning of `START.TAG`. -/
def execStartTag (s : State) : Host.Outcome State Fault Refusal := s.answer startTag

/-- The meaning of `START.CHUNK`. -/
def execStartChunk (s : State) : Host.Outcome State Fault Refusal := s.answer startChunk

/-- The meaning of `START.CONT`. -/
def execStartCont (s : State) : Host.Outcome State Fault Refusal := s.answer startCont

end Sys2Proof.Machine
end

