-- ==== Sys2Proof/Machine/Dispatch.lean ====
section
/-! DEFINITION. One arm per command: the meaning it calls. -/

namespace Sys2Proof.Machine

def exec (i : Instr) (s : State) : Host.Outcome State Fault Refusal :=
  match i with
  | .startCrc => Sys2Proof.Machine.execStartCrc s
  | .startTag => Sys2Proof.Machine.execStartTag s
  | .startChunk => Sys2Proof.Machine.execStartChunk s
  | .startCont => Sys2Proof.Machine.execStartCont s
  | .push b => Sys2Proof.Machine.execPush b s
  | .endBuffer => Sys2Proof.Machine.execEndBuffer s
  | .reservedStart x mode => Sys2Proof.Machine.execReservedStart x mode s
  | .reservedEnd x => Sys2Proof.Machine.execReservedEnd x s
  | .reservedOp3 x => Sys2Proof.Machine.execReservedOp3 x s

end Sys2Proof.Machine
end

