-- ==== Sys2Proof/Machine/Step.lean ====
section
/-! DEFINITION. One step: the host drives the reset input and the command port, the block acts. -/

namespace Sys2Proof.Machine

/-- One step on what the host drives in it. Reset overrides a command driven with it (70_reset R220); a command word
is decoded and executed atomically (40_commands R70); a step with no command changes no register. -/
def stepOn (inp : Input) (s : State) : Host.Outcome State Fault Refusal :=
  match inp.reset, inp.command with
  | true, _ => .next s.applyReset
  | false, none => .next s.stayIdle
  | false, some w => exec (decode w) s

/-- One step of the machine: the next entry of `input` is consumed; when the list is empty the host drives nothing
(notes/assumptions/1.md, 5.md). -/
def step (s : State) : Host.Outcome State Fault Refusal :=
  match s.input with
  | [] => .next s.stayIdle
  | inp :: rest => stepOn inp { s with input := rest }

/-- The state whose next step finds the table word `w` of `nbits` bits on the command port. A value the ten-bit port
cannot carry stands for no command (notes/assumptions/6.md, 7.md). -/
def State.withFetchWord (s : State) (nbits w : Nat) : State :=
  let v := w % 2 ^ nbits
  { s with
    input := { reset := false, command := if v < 1024 then some (BitVec.ofNat 10 v) else none } :: s.input }

end Sys2Proof.Machine
end

