-- ==== Sys2Proof/Machine/Wire.lean ====
section
/-! DEFINITION. The wire format as pure functions over whole buffers (spec 30_encoding Part A): decoding, creating and
encoding a chunk (43_chunk_framer) and a container (44_container). -/

namespace Sys2Proof.Machine

/-- A chunk: "length, type, payload, checksum" (43_chunk_framer R125). -/
structure Chunk where
  length   : Word
  type     : TypeTag
  payload  : List Byte
  checksum : Word
  deriving DecidableEq, Repr

/-- The invariant of a chunk: `length` is the payload's size and `checksum` the CRC of type and payload (R125). -/
def Chunk.consistent (c : Chunk) : Prop :=
  c.length.toNat = c.payload.length ∧ c.checksum = crc32 (c.type.bytes ++ c.payload)

/-- The type is one a decoder accepts (30_encoding R48). -/
def Chunk.legalType (c : Chunk) : Prop := tagCheck c.type = .ok ()

/-- `encode_chunk`: length, type, payload, checksum (43_chunk_framer R141). -/
def encodeChunk (c : Chunk) : List Byte := be32 c.length ++ c.type.bytes ++ c.payload ++ be32 c.checksum

/-- `create_chunk`: the chunk of a tag and a payload; none when the payload's size does not fit the length field, where
the spec gives no meaning (43_chunk_framer R142, U6; notes/assumptions/11.md). The tag is not checked. -/
def createChunk (t : TypeTag) (p : List Byte) : Option Chunk :=
  if p.length ≤ 0xFFFFFFFF then
    some { length := BitVec.ofNat 32 p.length, type := t, payload := p, checksum := crc32 (t.bytes ++ p) }
  else none

/-- The end of `decode_chunk`, after payload `p` of declared length `l`: read the checksum field, compare
(43_chunk_framer R126). -/
def decodeChecksum (l : Word) (t : TypeTag) (p : List Byte) : List Byte → Except ErrorKind (Chunk × List Byte)
  | c0 :: c1 :: c2 :: c3 :: rest =>
    if unbe32 c0 c1 c2 c3 = crc32 (t.bytes ++ p) then
      .ok ({ length := l, type := t, payload := p, checksum := unbe32 c0 c1 c2 c3 }, rest)
    else .error .checksumError
  | _ => .error .framingError

/-- The middle of `decode_chunk`, after the length and the type: check the tag, take exactly the declared number of
payload bytes (43_chunk_framer R126, R127, R129). Sizes are natural numbers and do not wrap;
no platform bound on them: U14, notes/assumptions/21.md. -/
def decodeBody (l : Word) (t : TypeTag) (r : List Byte) : Except ErrorKind (Chunk × List Byte) :=
  match tagCheck t with
  | .error e => .error e
  | .ok () =>
    if r.length < l.toNat then .error .framingError
    else decodeChecksum l t (r.take l.toNat) (r.drop l.toNat)

/-- `decode_chunk`: one record from the front of a buffer, with the bytes after it (43_chunk_framer R126). Fewer than
eight bytes lack a length or a type byte. -/
def decodeChunk : List Byte → Except ErrorKind (Chunk × List Byte)
  | l0 :: l1 :: l2 :: l3 :: t0 :: t1 :: t2 :: t3 :: r =>
    decodeBody (unbe32 l0 l1 l2 l3) { t0 := t0, t1 := t1, t2 := t2, t3 := t3 } r
  | _ => .error .framingError

/-- The loop of `decode_container` (44_container R156). Each record has at least twelve bytes, so a bound of the
buffer's size is never reached: `decodeRecords_eq` (Laws/Wire) is the loop without it (notes/assumptions/9.md). -/
def decodeRecords : Nat → List Byte → Except ErrorKind (List Chunk)
  | _, [] => .ok []
  | 0, _ :: _ => .error .framingError
  | n + 1, b :: r =>
    match decodeChunk (b :: r) with
    | .error e => .error e
    | .ok (c, rest) =>
      match decodeRecords n rest with
      | .error e => .error e
      | .ok cs => .ok (c :: cs)

/-- `decode_container`: the eight signature bytes, then records until the buffer is exhausted (44_container R156,
R157). A buffer of fewer than eight bytes does not begin with the signature. -/
def decodeContainer (sig : Config.Signature) (buf : List Byte) : Except ErrorKind (List Chunk) :=
  if buf.take 8 = sig.toList then decodeRecords buf.length (buf.drop 8) else .error .signatureError

/-- `encode_container`: the signature, then each chunk in order (44_container R169). -/
def encodeContainer (sig : Config.Signature) (cs : List Chunk) : List Byte :=
  sig.toList ++ cs.flatMap encodeChunk

/-- A buffer with bit `j` of its byte `pos` flipped (43_chunk_framer R144). -/
def flipBit (buf : List Byte) (pos j : Nat) : List Byte := buf.modify pos fun b => b ^^^ (1#8 <<< j)

end Sys2Proof.Machine
end

