-- ==== Sys2Proof/Machine/Software.lean ====
section
/-! DEFINITION. The software around the block, as spec 45_software_context records it. It is informative there (R175) and
outside the block (00_scope R4): no command uses it. See notes/assumptions/14.md. -/

namespace Sys2Proof.Machine.Software

/-- The error kinds of the software; the block raises neither of the last two (60_exceptions R196). -/
inductive SoftwareError where
  | codec (e : ErrorKind)
  | notFoundError
  | encodingError
  deriving DecidableEq, Repr

/-- The ordered chunk sequence of a `Container` (44_container R155, 45_software_context R191). -/
abbrev Container := List Chunk

/-- An ASCII letter. -/
def isAsciiLetter (c : Char) : Bool := c.toNat < 256 && isAlpha (BitVec.ofNat 8 c.toNat)

/-- `TypeTag::fromText`: the alphabetic test over the whole string, no reserved-bit test, then the first four characters;
a short string fails the same way (R176). -/
def fromText (s : List Char) : Except SoftwareError TypeTag :=
  match s.all isAsciiLetter, s with
  | true, a :: b :: c :: d :: _ =>
    .ok { t0 := BitVec.ofNat 8 a.toNat, t1 := BitVec.ofNat 8 b.toNat, t2 := BitVec.ofNat 8 c.toNat,
          t3 := BitVec.ofNat 8 d.toNat }
  | _, _ => .error (.codec .invalidByteError)

/-- The character of a scalar value of at least `lo`, if `v` is one. -/
def scalar (lo v : Nat) : Option Char := if lo ≤ v ∧ v.isValidChar then some (Char.ofNat v) else none

/-- `n` UTF-8 continuation bytes (`10xxxxxx`), six bits each appended to the value `v`; the value and the bytes after. -/
def utf8Tails : Nat → Nat → List Byte → Option (Nat × List Byte)
  | 0, v, r => some (v, r)
  | _ + 1, _, [] => none
  | n + 1, v, b :: r =>
    if b.extractLsb' 6 2 = 0b10#2 then utf8Tails n (v * 64 + (b.extractLsb' 0 6).toNat) r else none

/-- The character of a decoded value of at least `lo`, with the bytes after it. -/
def utf8Char (lo : Nat) (p : Nat × List Byte) : Option (Char × List Byte) := (scalar lo p.1).map fun c => (c, p.2)

/-- The first character of a byte sequence read as UTF-8, with the bytes after it: one to four bytes, no overlong form,
no surrogate. PRESUMED: R106 and R178 name UTF-8, its form is the Unicode standard's (notes/assumptions/20.md). -/
def utf8Next : List Byte → Option (Char × List Byte)
  | [] => none
  | a :: r =>
    if a.extractLsb' 7 1 = 0b0#1 then utf8Char 0 (a.toNat, r)
    else if a.extractLsb' 5 3 = 0b110#3 then (utf8Tails 1 (a.extractLsb' 0 5).toNat r).bind (utf8Char 0x80)
    else if a.extractLsb' 4 4 = 0b1110#4 then (utf8Tails 2 (a.extractLsb' 0 4).toNat r).bind (utf8Char 0x800)
    else if a.extractLsb' 3 5 = 0b11110#5 then (utf8Tails 3 (a.extractLsb' 0 3).toNat r).bind (utf8Char 0x10000)
    else none

/-- A byte sequence read as UTF-8. Each character takes at least one byte, so a bound of the sequence's size is never
reached: `utf8Decode_eq` (Laws/Software) is the loop without it. -/
def utf8Decode : Nat → List Byte → Option (List Char)
  | _, [] => some []
  | 0, _ :: _ => none
  | n + 1, b :: r =>
    match utf8Next (b :: r) with
    | none => none
    | some (c, rest) => (utf8Decode n rest).map (c :: ·)

/-- `toText`: the four bytes as ASCII/UTF-8 text (R178, 42_typetag R106); bytes that are not UTF-8 give the recoverable
`EncodingError`. -/
def toText (t : TypeTag) : Except SoftwareError (List Char) :=
  match utf8Decode 4 t.bytes with
  | some s => .ok s
  | none => .error .encodingError

/-- The type's text form equals a name (R180, R182). DESIGN CHOICE, notes/assumptions/19.md: a chunk whose type has no text
form (`toText` fails) equals no name, and the search goes on past it. -/
def hasTypeName (name : List Char) (c : Chunk) : Bool :=
  match toText c.type with
  | .ok s => s == name
  | .error _ => false

/-- `append`: to the end, no duplicate-type check (R179). -/
def append (cs : Container) (c : Chunk) : Container := cs ++ [c]

/-- `remove`: the first chunk of that type, or `NotFoundError` (R180, R181). -/
def remove (cs : Container) (name : List Char) : Except SoftwareError Container :=
  if cs.any (hasTypeName name) then .ok (cs.eraseP (hasTypeName name)) else .error .notFoundError

/-- `findByType`: the first chunk of that type, or nothing (R182, 90_conflicts C2). -/
def findByType (cs : Container) (name : List Char) : Option Chunk := cs.find? (hasTypeName name)

/-- `chunks()` (R183). -/
def chunks (cs : Container) : List Chunk := cs

/-- `Container::encode` (R184). -/
def encode (sig : Config.Signature) (cs : Container) : List Byte := encodeContainer sig cs

/-- A payload byte as the Unicode scalar value of that number (R185). -/
def scalarOf (b : Byte) : Option Char := scalar 0 b.toNat

/-- `payloadAsText`: each byte a scalar value, or `EncodingError` (R185, R186). -/
def payloadAsText (c : Chunk) : Except SoftwareError (List Char) :=
  match c.payload.mapM scalarOf with
  | some s => .ok s
  | none => .error .encodingError

end Sys2Proof.Machine.Software
end

