-- ==== Sys2Proof/Machine/Command.lean ====
section
/-! DEFINITION. The step function in the spec's own form (40_commands R82): registers and a command give registers
and a response, with `SIG` as the only parameter. -/

namespace Sys2Proof.Machine

/-- `step : State x Command -> State x Response` of R82. `exec_eq_answer` (Laws/Exec) says that `exec` is this
function on the registers of the State. -/
def command (sig : Config.Signature) (i : Instr) (r : Regs) : Regs × Response :=
  match i with
  | .startCrc => startCrc
  | .startTag => startTag
  | .startChunk => startChunk
  | .startCont => startCont
  | .push b => push sig b r
  | .endBuffer => endBuffer r
  | .reservedStart _ _ => refuse r
  | .reservedEnd _ => refuse r
  | .reservedOp3 _ => refuse r

/-- The registers and the response after each command of a sequence: the left fold of the step function, with every
intermediate value (20_memory R39). -/
def commands (sig : Config.Signature) : List Instr → Regs → List (Regs × Response)
  | [], _ => []
  | i :: is, r => command sig i r :: commands sig is (command sig i r).1

end Sys2Proof.Machine
end

