-- ==== Sys2Proof/Machine/Observe.lean ====
section
/-! DEFINITION. What the host sees and does: the response word, the status port, command scripts, runs, the outcome and
the committed result of a run (spec 30_encoding Part B and C, 40_commands R83, 44_container R167, R168). -/

namespace Sys2Proof.Machine

/-- `RSP[10:8]`: the event's code; 5 to 7 are never produced (30_encoding R60). -/
def Event.code : Event → BitVec 3
  | .none => 0
  | .payload _ => 1
  | .chunk => 2
  | .done => 3
  | .err _ => 4

/-- `RSP[7:0]`: the payload byte, the zero-extended error code, or 0 (30_encoding R60). -/
def Event.data : Event → Byte
  | .none => 0
  | .payload b => b
  | .chunk => 0
  | .done => 0
  | .err e => e.toErr.code.setWidth 8

/-- The response word: `refused`, event, data; a refused command answers 0x800 (30_encoding R60). -/
def Response.word : Response → RspWord
  | .ack e => 0#1 ++ e.code ++ e.data
  | .refused => 0x800

/-- The status port: named signals (30_encoding R61, 10_state R21). -/
structure StatusPort where
  mode   : BitVec 2
  phase  : BitVec 4
  err    : BitVec 3
  crc    : Word
  crcOut : Word
  len    : Word
  type   : Word
  csum   : Word
  cnt    : Word
  facets : FacetBits
  deriving DecidableEq, Repr

/-- What the status port shows of the registers, without side effect (10_state R21, 30_encoding R62). -/
def Regs.statusPort (r : Regs) : StatusPort :=
  { mode := r.mode.code, phase := r.phase.code, err := r.err.code, crc := r.crc, crcOut := crcOut r.crc,
    len := r.len, type := r.type, csum := r.csum, cnt := r.cnt, facets := r.facets }

/-- `START.<mode>` (30_encoding R55). -/
def Mode.start : Mode → Instr
  | .crc => .startCrc
  | .tag => .startTag
  | .chunk => .startChunk
  | .cont => .startCont

/-- `PUSHS b0 b1 ...` (30_encoding R65). -/
def pushs (m : List Byte) : List Instr := m.map .push

/-- `PUSHSIG` (30_encoding R65). -/
def pushSignature (sig : Config.Signature) : List Instr := pushs sig.toList

/-- `RUN.<mode> <bytes>` (30_encoding R65). -/
def runScript (mode : Mode) (m : List Byte) : List Instr := mode.start :: (pushs m ++ [.endBuffer])

/-- The host issues one command: its word on the command port, no reset. -/
def issue (i : Instr) : Input := { reset := false, command := some (encode i) }

/-- The host is to issue these commands, one a step, and then nothing (40_commands R70). -/
def State.withScript (s : State) (is : List Instr) : State := { s with input := is.map issue }

/-- The states after each of the next `n` steps, in order; it ends early if a step does not answer a next state. -/
def trace : Nat → State → List State
  | 0, _ => []
  | n + 1, s =>
    match step s with
    | .next t => t :: trace n t
    | .fault _ => []
    | .refused _ => []

/-- The states after each command of a script run from `s`. -/
def runScriptFrom (is : List Instr) (s : State) : List State := trace is.length (s.withScript is)

/-- `run(m, buf)` of 40_commands R83 from the state `s`: the states after `START.m`, each `PUSH` and `END`; the
response of each command is the field `rsp` of its state. -/
def run (mode : Mode) (buf : List Byte) (s : State) : List State := runScriptFrom (runScript mode buf) s

/-- The payload bytes a trace delivered, in order (43_chunk_framer R135). -/
def payloadEvents (tr : List State) : List Byte :=
  tr.filterMap fun s =>
    match s.rsp with
    | some (.ack (.payload b)) => some b
    | some (.ack .none) => none
    | some (.ack .chunk) => none
    | some (.ack .done) => none
    | some (.ack (.err _)) => none
    | some .refused => none
    | none => none

/-- The response of a command decides the outcome of an operation of this mode (40_commands R83): the event `DONE`, or in
`CHUNK` mode the event `CHUNK`, is success; the event `ERR` is failure. -/
def decides (mode : Mode) : Option Response → Option (Except ErrorKind Unit)
  | some (.ack .done) => some (.ok ())
  | some (.ack .chunk) => if mode = .chunk then some (.ok ()) else none
  | some (.ack (.err e)) => some (.error e)
  | some (.ack .none) => none
  | some (.ack (.payload _)) => none
  | some .refused => none
  | none => none

/-- The outcome of a run: that of the first response that decides it (40_commands R83). -/
def outcome (mode : Mode) (tr : List State) : Option (Except ErrorKind Unit) :=
  tr.findSome? fun s => decides mode s.rsp

/-- The command is a `START` (40_commands section 2). -/
def isStart : Instr → Bool
  | .startCrc => true
  | .startTag => true
  | .startChunk => true
  | .startCont => true
  | .push _ => false
  | .endBuffer => false
  | .reservedStart _ _ => false
  | .reservedEnd _ => false
  | .reservedOp3 _ => false

/-- What the host drives in the next step: the next entry of the list, else nothing (notes/assumptions/1.md). -/
def State.driven (s : State) : Input := s.input.headD { reset := false, command := none }

/-- The next `n` steps as the host sees them: what it drove in each, and the state after it. The states are those of
`trace` (`observe_states`, Laws/Observe). -/
def observe : Nat → State → List (Input × State)
  | 0, _ => []
  | n + 1, s =>
    match step s with
    | .next t => (s.driven, t) :: observe n t
    | .fault _ => []
    | .refused _ => []

/-- The host drives these inputs, one a step, from the state `s`. -/
def observeFrom (ins : List Input) (s : State) : List (Input × State) := observe ins.length { s with input := ins }

/-- `run(m, buf)` of 40_commands R83 as the host sees it. -/
def observeRun (mode : Mode) (buf : List Byte) (s : State) : List (Input × State) :=
  observeFrom ((runScript mode buf).map issue) s

/-- The consumer: the payload of the record being received and the chunks of the operation in progress, all provisional
and held back (70_reset R225), and the results of the operations that have ended, committed, oldest first
(44_container R167, R168; notes/assumptions/12.md). -/
structure Consumer where
  payload : List Byte
  chunks  : List Chunk
  results : List (Except ErrorKind (List Chunk))
  deriving DecidableEq, Repr

/-- The consumer has seen nothing. -/
def Consumer.empty : Consumer := { payload := [], chunks := [], results := [] }

/-- Everything provisional is discarded (70_reset R225). -/
def Consumer.discard (c : Consumer) : Consumer := { c with payload := [], chunks := [] }

/-- The operation has ended with result `r`; nothing provisional is left (44_container R168). -/
def Consumer.commit (c : Consumer) (r : Except ErrorKind (List Chunk)) : Consumer :=
  { payload := [], chunks := [], results := c.results ++ [r] }

/-- The chunk decoded at a `CHUNK` event: the registers on the status port and the payload events of the record
(43_chunk_framer R138). -/
def chunkAt (r : Regs) (payload : List Byte) : Chunk :=
  { length := r.len, type := TypeTag.ofWord r.type, payload := payload, checksum := r.csum }

/-- A verified record joins the chunks of the operation (44_container R167). -/
def Consumer.addChunk (c : Consumer) (ch : Chunk) : Consumer := { c with payload := [], chunks := c.chunks ++ [ch] }

/-- The consumer sees the response to a command that is no `START`: payload and chunks are held back until `DONE`, in
`CHUNK` mode until the `CHUNK` event, and an error is committed alone (70_reset R225, 44_container R168). -/
def Consumer.seeResponse (c : Consumer) (s : State) : Consumer :=
  match s.rsp with
  | some (.ack (.payload b)) => { c with payload := c.payload ++ [b] }
  | some (.ack .chunk) =>
    let c := c.addChunk (chunkAt s.regs c.payload)
    if s.regs.mode = .chunk then c.commit (.ok c.chunks) else c
  | some (.ack .done) => c.commit (.ok c.chunks)
  | some (.ack (.err e)) => c.commit (.error e)
  | some (.ack .none) => c
  | some .refused => c
  | none => c

/-- The consumer sees one step. Reset and `START` discard what an abandoned operation delivered (70_reset R225,
40_commands R84). R225 says so of a `START` in an active phase; the model's consumer discards at
every `START` (notes/assumptions/12.md). -/
def Consumer.see (c : Consumer) (o : Input × State) : Consumer :=
  match o.1.reset, o.1.command with
  | true, _ => c.discard
  | false, none => c
  | false, some w => if isStart (decode w) then c.discard else c.seeResponse o.2

/-- What the consumer holds after seeing these steps. -/
def consume (obs : List (Input × State)) : Consumer := obs.foldl Consumer.see Consumer.empty

/-- The committed results of the operations that ended in these steps, oldest first: for each, all its chunks or its
error alone; an abandoned operation has none (44_container R168, 40_commands R84). -/
def committed (obs : List (Input × State)) : List (Except ErrorKind (List Chunk)) := (consume obs).results

end Sys2Proof.Machine
end

