-- ==== Sys2Proof/Safety.lean ====
section
/-! DEFINITION. What the claims are about: the invariants of spec 10_state R28, the transition table of 40_commands R78,
the kinds of command and event the rules speak of. -/

namespace Sys2Proof.Machine

/-- The command is a reserved word (30_encoding R59). -/
def isReserved : Instr → Bool
  | .startCrc => false
  | .startTag => false
  | .startChunk => false
  | .startCont => false
  | .push _ => false
  | .endBuffer => false
  | .reservedStart _ _ => true
  | .reservedEnd _ => true
  | .reservedOp3 _ => true

/-- The command is a `PUSH`. -/
def isPush : Instr → Bool
  | .startCrc => false
  | .startTag => false
  | .startChunk => false
  | .startCont => false
  | .push _ => true
  | .endBuffer => false
  | .reservedStart _ _ => false
  | .reservedEnd _ => false
  | .reservedOp3 _ => false

/-- The response carries the event `DONE` or `ERR`, which ends an operation (40_commands R81). -/
def isFinal : Option Response → Bool
  | some (.ack .done) => true
  | some (.ack (.err _)) => true
  | some (.ack .none) => false
  | some (.ack (.payload _)) => false
  | some (.ack .chunk) => false
  | some .refused => false
  | none => false

/-- The test instantiation of `SIG` (00_scope R6): for witnesses and examples only, never the model's value. -/
def testSignature : Config.Signature := #v[0x89, 0x50, 0x4E, 0x47, 0x0D, 0x0A, 0x1A, 0x0A]

/-- The invariants of 10_state R28, (a) to (h). -/
structure Regs.Inv (r : Regs) : Prop where
  /-- (a) `PHASE = ERR` if and only if `ERR != 0`. -/
  errPhase : r.phase = .err ↔ r.err ≠ .none
  /-- (b) In phase `SIG`, `1 <= CNT <= 8` and `MODE = CONT`. -/
  sigCount : r.phase = .sig → 1 ≤ r.cnt.toNat ∧ r.cnt.toNat ≤ 8 ∧ r.mode = .cont
  /-- (c) In phases `LEN`, `TYPE`, `CSUM`, `1 <= CNT <= 4`. -/
  fieldCount : r.phase = .len ∨ r.phase = .type ∨ r.phase = .csum → 1 ≤ r.cnt.toNat ∧ r.cnt.toNat ≤ 4
  /-- (d) In phase `PAYLOAD`, `1 <= CNT <= LEN`. -/
  payloadCount : r.phase = .payload → 1 ≤ r.cnt.toNat ∧ r.cnt.toNat ≤ r.len.toNat
  /-- (e) In phase `STREAM`, `MODE = CRC`. -/
  streamMode : r.phase = .stream → r.mode = .crc
  /-- (f) In phases `LEN`, `PAYLOAD`, `CSUM`, `MODE` is `CHUNK` or `CONT`. -/
  recordMode : r.phase = .len ∨ r.phase = .payload ∨ r.phase = .csum → r.mode = .chunk ∨ r.mode = .cont
  /-- (f) In phase `TYPE`, `MODE` is `TAG`, `CHUNK` or `CONT`. -/
  typeMode : r.phase = .type → r.mode = .tag ∨ r.mode = .chunk ∨ r.mode = .cont
  /-- (g) In phases `PAYLOAD` and `CSUM`, and in `DONE` when `MODE` is `TAG` or `CHUNK`, `FACETS[4] = 1`. -/
  tagAccepted : (r.phase = .payload ∨ r.phase = .csum ∨ (r.phase = .done ∧ (r.mode = .tag ∨ r.mode = .chunk))) →
    r.facets.getLsbD 4 = true
  /-- (h) `ERR` is never 6 or 7; `PHASE` is never outside the nine values. -/
  codes : r.err.code ≠ 6 ∧ r.err.code ≠ 7 ∧ r.phase.code.toNat ≤ 8

/-- What (g) of R28 adds in words, "the tag in `TYPE` was accepted": where the invariant speaks of `FACETS`, they are
those of the tag in `TYPE` and that tag is legal. -/
def Regs.HoldsAcceptedTag (r : Regs) : Prop :=
  (r.phase = .payload ∨ r.phase = .csum ∨ (r.phase = .done ∧ (r.mode = .tag ∨ r.mode = .chunk))) →
    r.facets = (TypeTag.ofWord r.type).facets ∧ tagCheck (TypeTag.ofWord r.type) = .ok ()

/-- The rows of the transition table of 40_commands R78, one constructor a row (the rows for several phases or commands
one a group): from the registers `r`, the command leads to the phase and the response. `tag` is the tag after the
byte of the command has been shifted in, `csum` the checksum field after it. -/
inductive Transition (sig : Config.Signature) (r : Regs) : Instr → Phase → Response → Prop where
  | startCrc : Transition sig r .startCrc .stream (.ack .none)
  | startTag : Transition sig r .startTag .type (.ack .none)
  | startChunk : Transition sig r .startChunk .len (.ack .none)
  | startCont : Transition sig r .startCont .sig (.ack .none)
  | streamPush (b : Byte) (hp : r.phase = .stream) : Transition sig r (.push b) .stream (.ack .none)
  | streamEnd (hp : r.phase = .stream) : Transition sig r .endBuffer .done (.ack .done)
  | sigMore (b : Byte) (hp : r.phase = .sig) (hb : sig[8 - r.cnt.toNat]? = some b) (hc : 1 < r.cnt.toNat) :
      Transition sig r (.push b) .sig (.ack .none)
  | sigLast (b : Byte) (hp : r.phase = .sig) (hb : sig[8 - r.cnt.toNat]? = some b) (hc : r.cnt.toNat = 1) :
      Transition sig r (.push b) .len (.ack .none)
  | sigWrong (b : Byte) (hp : r.phase = .sig) (hb : sig[8 - r.cnt.toNat]? ≠ some b) :
      Transition sig r (.push b) .err (.ack (.err .signatureError))
  | sigEnd (hp : r.phase = .sig) : Transition sig r .endBuffer .err (.ack (.err .signatureError))
  | lenMore (b : Byte) (hp : r.phase = .len) (hc : 1 < r.cnt.toNat) :
      Transition sig r (.push b) .len (.ack .none)
  | lenLast (b : Byte) (hp : r.phase = .len) (hc : r.cnt.toNat = 1) :
      Transition sig r (.push b) .type (.ack .none)
  | lenBoundary (hp : r.phase = .len) (hm : r.mode = .cont) (hc : r.cnt.toNat = 4) :
      Transition sig r .endBuffer .done (.ack .done)
  | lenCut (hp : r.phase = .len) (hm : ¬(r.mode = .cont ∧ r.cnt.toNat = 4)) :
      Transition sig r .endBuffer .err (.ack (.err .framingError))
  | typeMore (b : Byte) (hp : r.phase = .type) (hc : 1 < r.cnt.toNat) :
      Transition sig r (.push b) .type (.ack .none)
  | typeReserved (b : Byte) (tag : TypeTag) (hp : r.phase = .type) (hc : r.cnt.toNat = 1)
      (ht : tag = TypeTag.ofWord (shiftIn r.type b)) (hu : isUpper tag.t2 = false) :
      Transition sig r (.push b) .err (.ack (.err .reservedBitError))
  | typeInvalid (b : Byte) (tag : TypeTag) (hp : r.phase = .type) (hc : r.cnt.toNat = 1)
      (ht : tag = TypeTag.ofWord (shiftIn r.type b)) (hu : isUpper tag.t2 = true)
      (ha : ∃ x ∈ tag.bytes, isAlpha x = false) :
      Transition sig r (.push b) .err (.ack (.err .invalidByteError))
  | typeTag (b : Byte) (hp : r.phase = .type) (hc : r.cnt.toNat = 1)
      (hok : tagCheck (TypeTag.ofWord (shiftIn r.type b)) = .ok ()) (hm : r.mode = .tag) :
      Transition sig r (.push b) .done (.ack .done)
  | typeEmpty (b : Byte) (hp : r.phase = .type) (hc : r.cnt.toNat = 1)
      (hok : tagCheck (TypeTag.ofWord (shiftIn r.type b)) = .ok ()) (hm : r.mode = .chunk ∨ r.mode = .cont)
      (hl : r.len.toNat = 0) : Transition sig r (.push b) .csum (.ack .none)
  | typePayload (b : Byte) (hp : r.phase = .type) (hc : r.cnt.toNat = 1)
      (hok : tagCheck (TypeTag.ofWord (shiftIn r.type b)) = .ok ()) (hm : r.mode = .chunk ∨ r.mode = .cont)
      (hl : 0 < r.len.toNat) : Transition sig r (.push b) .payload (.ack .none)
  | typeEnd (hp : r.phase = .type) : Transition sig r .endBuffer .err (.ack (.err .framingError))
  | payloadMore (b : Byte) (hp : r.phase = .payload) (hc : 1 < r.cnt.toNat) :
      Transition sig r (.push b) .payload (.ack (.payload b))
  | payloadLast (b : Byte) (hp : r.phase = .payload) (hc : r.cnt.toNat = 1) :
      Transition sig r (.push b) .csum (.ack (.payload b))
  | payloadEnd (hp : r.phase = .payload) : Transition sig r .endBuffer .err (.ack (.err .framingError))
  | csumMore (b : Byte) (hp : r.phase = .csum) (hc : 1 < r.cnt.toNat) :
      Transition sig r (.push b) .csum (.ack .none)
  | csumChunk (b : Byte) (hp : r.phase = .csum) (hc : r.cnt.toNat = 1)
      (heq : shiftIn r.csum b = r.crc ^^^ 0xFFFFFFFF) (hm : r.mode = .chunk) :
      Transition sig r (.push b) .done (.ack .chunk)
  | csumCont (b : Byte) (hp : r.phase = .csum) (hc : r.cnt.toNat = 1)
      (heq : shiftIn r.csum b = r.crc ^^^ 0xFFFFFFFF) (hm : r.mode = .cont) :
      Transition sig r (.push b) .len (.ack .chunk)
  | csumWrong (b : Byte) (hp : r.phase = .csum) (hc : r.cnt.toNat = 1)
      (hne : shiftIn r.csum b ≠ r.crc ^^^ 0xFFFFFFFF) :
      Transition sig r (.push b) .err (.ack (.err .checksumError))
  | csumEnd (hp : r.phase = .csum) : Transition sig r .endBuffer .err (.ack (.err .framingError))
  | restingPush (b : Byte) (hp : r.phase.isActive = false) : Transition sig r (.push b) r.phase .refused
  | restingEnd (hp : r.phase.isActive = false) : Transition sig r .endBuffer r.phase .refused
  | reserved (i : Instr) (hi : isReserved i = true) : Transition sig r i r.phase .refused

end Sys2Proof.Machine
end

