-- ==== Sys2Proof/Certificates/Slice0/Obligations.lean ====
section
/-! DEFINITION. The statements about the model, for the provers. Each docstring names the rule of spec/ it formalises. -/

open Sys2Proof Sys2Proof.Machine

/-! ### Encoding of commands -/

/-- 30_encoding R56, R57, R58: the words of `START`, `PUSH` and `END`, both directions. -/
def Obligations.CommandWordsOfStartPushEnd : Prop :=
  (decode 0x000 = .startCrc ∧ decode 0x001 = .startTag ∧ decode 0x002 = .startChunk ∧ decode 0x003 = .startCont) ∧
  (encode .startCrc = 0x000 ∧ encode .startTag = 0x001 ∧ encode .startChunk = 0x002 ∧ encode .startCont = 0x003) ∧
  (∀ b : Byte, decode (0x100#10 + b.setWidth 10) = .push b ∧ encode (.push b) = 0x100#10 + b.setWidth 10) ∧
  (decode 0x200 = .endBuffer ∧ encode .endBuffer = 0x200)

/-- 30_encoding Part B: encoding a well-formed command and decoding it gives the command back, and every ten-bit word is
the encoding of exactly the well-formed command it decodes to. -/
def Obligations.DecodeAndEncodeAgree : Prop :=
  (∀ i : Instr, i.wellFormed = true → decode (encode i) = i) ∧
  (∀ w : CmdWord, (decode w).wellFormed = true ∧ encode (decode w) = w)

/-- 30_encoding R59, 40_commands R80: the reserved words are exactly three ranges, and each is refused in every state,
an operation in progress included: response 0x800 and no register changes. -/
def Obligations.ReservedWordsAreRefusedInEveryPhase : Prop :=
  (∀ w : CmdWord, isReserved (decode w) = true ↔
    (0x004 ≤ w.toNat ∧ w.toNat ≤ 0x0FF) ∨ (0x201 ≤ w.toNat ∧ w.toNat ≤ 0x2FF) ∨
      (0x300 ≤ w.toNat ∧ w.toNat ≤ 0x3FF)) ∧
  (∀ (s : State) (w : CmdWord) (rest : List Input), isReserved (decode w) = true →
    s.input = { reset := false, command := some w } :: rest →
      step s = .next { s with input := rest, rsp := some .refused }) ∧
  Response.refused.word = 0x800

/-- 40_commands R80, for each reserved command, whatever its bits: it answers, and only the response changes. -/
def Obligations.ReservedCommandsChangeNothing : Prop :=
  ∀ s : State,
    (∀ x mode, exec (.reservedStart x mode) s = .next { s with rsp := some .refused }) ∧
    (∀ x, exec (.reservedEnd x) s = .next { s with rsp := some .refused }) ∧
    (∀ x, exec (.reservedOp3 x) s = .next { s with rsp := some .refused })

/-! ### The step and the reset input -/

/-- 40_commands R70: a step with a command word on the port, and no reset, executes the command it decodes to on the
state before it, the entry of the input list consumed; so it does for the word of every well-formed command. -/
def Obligations.StepExecutesTheIssuedCommand : Prop :=
  (∀ (s : State) (w : CmdWord) (rest : List Input), s.input = { reset := false, command := some w } :: rest →
    step s = exec (decode w) { s with input := rest }) ∧
  (∀ (s : State) (i : Instr) (rest : List Input), i.wellFormed = true → s.input = issue i :: rest →
    step s = exec i { s with input := rest })

/-- The model's choice (notes/assumptions/5.md): a step in which the host issues no command changes no register and gives
no response. -/
def Obligations.StepWithoutCommandChangesNoRegister : Prop :=
  (∀ s : State, s.input = [] → step s = .next { s with rsp := none }) ∧
  (∀ (s : State) (rest : List Input), s.input = { reset := false, command := none } :: rest →
    step s = .next { s with input := rest, rsp := none })

/-- 70_reset R220: reset overrides a command driven with it, sets `PHASE`, `ERR` and `MODE`, gives no response, and is no
command word: no command leads to `IDLE`. Of the six unspecified registers nothing is said. `State.reset` is a state
after reset. -/
def Obligations.ResetOverridesCommandsAndSetsControlRegisters : Prop :=
  (∀ (s : State) (c : Option CmdWord) (rest : List Input), s.input = { reset := true, command := c } :: rest →
    ∃ t, step s = .next t ∧ t.regs.phase = .idle ∧ t.regs.err = .none ∧ t.regs.mode = .crc ∧ t.rsp = none ∧
      t.sig = s.sig ∧ t.input = rest) ∧
  (∀ (i : Instr) (s t : State), exec i s = .next t → s.regs.phase ≠ .idle → t.regs.phase ≠ .idle) ∧
  (State.reset.regs.phase = .idle ∧ State.reset.regs.err = .none ∧ State.reset.regs.mode = .crc ∧
    State.reset.rsp = none)

/-- 10_state R26, 70_reset R222: what the six registers hold after reset is never read. Two machines in phase `IDLE` that
differ only there, however often each has been reset, give the same responses and the same control registers for ever, and
are equal in every register at every later moment at which `PHASE` is not `IDLE`. -/
def Obligations.UnspecifiedRegistersAreNeverRead : Prop :=
  ∀ (s s' : State), s.regs.phase = .idle → s'.regs.phase = .idle → s.regs.mode = s'.regs.mode →
    s.regs.err = s'.regs.err → s.sig = s'.sig → s.input = s'.input →
    ∀ (n k : Nat) (t t' : State), (trace n s)[k]? = some t → (trace n s')[k]? = some t' →
      t.rsp = t'.rsp ∧ t.regs.phase = t'.regs.phase ∧ t.regs.mode = t'.regs.mode ∧ t.regs.err = t'.regs.err ∧
      (t.regs.phase ≠ .idle → t.regs = t'.regs)

/-! ### START -/

/-- 40_commands R72: `START.CRC`, from any state; `END` directly after gives the checksum of the empty message. -/
def Obligations.StartCrcBeginsAStream : Prop :=
  decode 0x000 = .startCrc ∧
  ∀ s : State,
    exec .startCrc s = .next
      { s with
        regs := { mode := .crc, phase := .stream, err := .none, crc := 0xFFFFFFFF, len := 0, type := 0, csum := 0,
                  cnt := 0, facets := 0 }
        rsp := some (.ack .none) } ∧
    (∃ t u, runScriptFrom [.startCrc, .endBuffer] s = [t, u] ∧ t.regs.phase = .stream ∧
      t.regs.statusPort.crcOut = 0x00000000 ∧ u.regs.phase = .done ∧ u.regs.statusPort.crcOut = 0x00000000)

/-- 40_commands R73: `START.TAG`, from any state, and the rule's example. -/
def Obligations.StartTagBeginsATagCheck : Prop :=
  decode 0x001 = .startTag ∧
  ∀ s : State,
    exec .startTag s = .next
      { s with
        regs := { mode := .tag, phase := .type, err := .none, crc := 0xFFFFFFFF, len := 0, type := 0, csum := 0,
                  cnt := 4, facets := 0 }
        rsp := some (.ack .none) } ∧
    (∃ t, (runScriptFrom (.startTag :: pushs [0x52, 0x75, 0x53, 0x74]) s).getLast? = some t ∧
      t.regs.phase = .done ∧ t.regs.facets = 0x1D)

/-- 40_commands R74: `START.CHUNK`, from any state, and the rule's example. -/
def Obligations.StartChunkBeginsARecord : Prop :=
  decode 0x002 = .startChunk ∧
  ∀ s : State,
    exec .startChunk s = .next
      { s with
        regs := { mode := .chunk, phase := .len, err := .none, crc := 0xFFFFFFFF, len := 0, type := 0, csum := 0,
                  cnt := 4, facets := 0 }
        rsp := some (.ack .none) } ∧
    (∃ t, (runScriptFrom (.startChunk :: pushs
        [0x00, 0x00, 0x00, 0x00, 0x49, 0x45, 0x4E, 0x44, 0xAE, 0x42, 0x60, 0x82]) s).getLast? = some t ∧
      t.regs.phase = .done ∧ t.rsp = some (.ack .chunk))

/-- 40_commands R75: `START.CONT`, from any state; the empty container ends in `DONE` with no `CHUNK` event. -/
def Obligations.StartContBeginsAContainer : Prop :=
  decode 0x003 = .startCont ∧
  ∀ s : State,
    exec .startCont s = .next
      { s with
        regs := { mode := .cont, phase := .sig, err := .none, crc := 0xFFFFFFFF, len := 0, type := 0, csum := 0,
                  cnt := 8, facets := 0 }
        rsp := some (.ack .none) } ∧
    (∃ t, (runScriptFrom (.startCont :: (pushSignature s.sig ++ [.endBuffer])) s).getLast? = some t ∧
      t.regs.phase = .done) ∧
    (∀ t ∈ runScriptFrom (.startCont :: (pushSignature s.sig ++ [.endBuffer])) s, t.rsp ≠ some (.ack .chunk))

/-- 10_state R27, 20_memory R36: an operation does not depend on what came before it. The same buffer run in the same mode
from any two states with the same signature gives the same responses and the same registers after every command. -/
def Obligations.RunDoesNotDependOnTheStateBefore : Prop :=
  ∀ (mode : Mode) (buf : List Byte) (s s' : State), s.sig = s'.sig →
    (run mode buf s).map (fun t => (t.regs, t.rsp)) = (run mode buf s').map (fun t => (t.regs, t.rsp))

/-! ### PUSH and END, phase by phase -/

/-- 40_commands R79: `PUSH` and `END` in a resting phase answer 0x800 and change no register. -/
def Obligations.RestingPhasesRefusePushAndEnd : Prop :=
  Response.refused.word = 0x800 ∧
  ∀ s : State, s.regs.phase = .idle ∨ s.regs.phase = .done ∨ s.regs.phase = .err →
    (∀ b, exec (.push b) s = .next { s with rsp := some .refused }) ∧
    exec .endBuffer s = .next { s with rsp := some .refused }

/-- 41_crc R98: `PUSH` in phase `STREAM` absorbs the byte, and the rule's example. -/
def Obligations.PushInStreamAbsorbsTheByte : Prop :=
  (∀ (s : State) (b : Byte), s.regs.phase = .stream →
    exec (.push b) s = .next
      { s with regs := { s.regs with crc := crcStep s.regs.crc b }, rsp := some (.ack .none) }) ∧
  (∀ s : State, ∃ t, (runScriptFrom [.startCrc, .push 0x74] s).getLast? = some t ∧
    t.regs.crc = 0x7A95A557 ∧ t.regs.statusPort.crcOut = 0x856A5AA8)

/-- 44_container R160, R161: the byte expected in phase `SIG` is `SIG[8 - CNT]`; a match counts down and the eighth opens
the first record; a mismatch raises `SignatureError` and leaves `CNT`. With the test signature, R160's example. -/
def Obligations.PushInSigComparesOneByte : Prop :=
  (∀ (s : State) (b : Byte) (i : Fin 8), s.regs.phase = .sig → s.regs.cnt.toNat = 8 - i.val →
    (b = s.sig[i.val] → i.val < 7 →
      exec (.push b) s = .next
        { s with regs := { s.regs with cnt := s.regs.cnt - 1 }, rsp := some (.ack .none) }) ∧
    (b = s.sig[i.val] → i.val = 7 →
      exec (.push b) s = .next
        { s with regs := { s.regs with phase := .len, cnt := 4 }, rsp := some (.ack .none) }) ∧
    (b ≠ s.sig[i.val] →
      exec (.push b) s = .next
        { s with
          regs := { s.regs with err := .signatureError, phase := .err }
          rsp := some (.ack (.err .signatureError)) })) ∧
  (∀ s : State, s.sig = testSignature →
    ∃ t, (runScriptFrom [.startCont, .push 0x89] s).getLast? = some t ∧ t.regs.cnt = 7 ∧ t.regs.phase = .sig)

/-- The model's choice where 10_state R28 does not hold (notes/assumptions/8.md): with `CNT` outside 1 to 8 no
signature byte is expected, so every byte mismatches. -/
def Obligations.PushInSigOutsideTheInvariant : Prop :=
  ∀ (s : State) (b : Byte), s.regs.phase = .sig → s.regs.cnt.toNat = 0 ∨ 8 < s.regs.cnt.toNat →
    exec (.push b) s = .next
      { s with
        regs := { s.regs with err := .signatureError, phase := .err }
        rsp := some (.ack (.err .signatureError)) }

/-- The model's choice where 10_state R28 does not hold (notes/assumptions/8.md): with `CNT = 0` in a phase that
counts bytes (which 10_state R18 says does not occur) a `PUSH` shifts or absorbs as in every state and `CNT - 1` wraps
at 32 bits, so the field does not end. -/
def Obligations.PushWithCountZeroWraps : Prop :=
  ∀ (s : State) (b : Byte), s.regs.cnt = 0 →
    (s.regs.phase = .len →
      exec (.push b) s = .next
        { s with
          regs := { s.regs with len := shiftIn s.regs.len b, cnt := 0xFFFFFFFF }
          rsp := some (.ack .none) }) ∧
    (s.regs.phase = .type →
      exec (.push b) s = .next
        { s with
          regs := { s.regs with type := shiftIn s.regs.type b, crc := crcStep s.regs.crc b, cnt := 0xFFFFFFFF }
          rsp := some (.ack .none) }) ∧
    (s.regs.phase = .payload →
      exec (.push b) s = .next
        { s with
          regs := { s.regs with crc := crcStep s.regs.crc b, cnt := 0xFFFFFFFF }
          rsp := some (.ack (.payload b)) }) ∧
    (s.regs.phase = .csum →
      exec (.push b) s = .next
        { s with
          regs := { s.regs with csum := shiftIn s.regs.csum b, cnt := 0xFFFFFFFF }
          rsp := some (.ack .none) })

/-- 43_chunk_framer R131: `PUSH` in phase `LEN` with a byte expected, byte by byte, and the whole field: after four
bytes `LEN` is their big-endian value whatever it held, and the CRC is fresh. -/
def Obligations.PushInLenAssemblesTheLength : Prop :=
  (∀ (s : State) (b : Byte), s.regs.phase = .len → s.regs.cnt ≠ 0 → s.regs.cnt - 1 ≠ 0 →
    exec (.push b) s = .next
      { s with
        regs := { s.regs with len := s.regs.len.extractLsb' 0 24 ++ b, cnt := s.regs.cnt - 1 }
        rsp := some (.ack .none) }) ∧
  (∀ (s : State) (b : Byte), s.regs.phase = .len → s.regs.cnt - 1 = 0 →
    exec (.push b) s = .next
      { s with
        regs := { s.regs with
                  len := s.regs.len.extractLsb' 0 24 ++ b, phase := .type, cnt := 4, crc := 0xFFFFFFFF }
        rsp := some (.ack .none) }) ∧
  (∀ (s : State) (b0 b1 b2 b3 : Byte), s.regs.phase = .len → s.regs.cnt = 4 →
    ∃ t, (runScriptFrom (pushs [b0, b1, b2, b3]) s).getLast? = some t ∧
      t.regs = { s.regs with len := unbe32 b0 b1 b2 b3, phase := .type, cnt := 4, crc := 0xFFFFFFFF })

/-- 42_typetag R114, R113, R115 and 43_chunk_framer R133: `PUSH` in phase `TYPE` with a byte expected. Every byte is
shifted in and absorbed; the fourth writes `FACETS`, then an illegal tag raises its error and a legal one ends `TAG`
mode or opens the payload, or the checksum when the length is 0. -/
def Obligations.PushInTypeChecksTheTag : Prop :=
  ∀ (s : State) (b : Byte) (r : Regs), s.regs.phase = .type →
    r = { s.regs with
          type := s.regs.type.extractLsb' 0 24 ++ b, crc := crcStep s.regs.crc b, cnt := s.regs.cnt - 1 } →
    (s.regs.cnt ≠ 0 → s.regs.cnt - 1 ≠ 0 →
      exec (.push b) s = .next { s with regs := r, rsp := some (.ack .none) }) ∧
    (s.regs.cnt - 1 = 0 → ∀ tag : TypeTag, tag = TypeTag.ofWord r.type →
      (∀ e, tagCheck tag = .error e →
        exec (.push b) s = .next
          { s with
            regs := { r with facets := tag.facets, err := e.toErr, phase := .err }
            rsp := some (.ack (.err e)) }) ∧
      (tagCheck tag = .ok () → s.regs.mode = .tag →
        exec (.push b) s = .next
          { s with regs := { r with facets := tag.facets, phase := .done }, rsp := some (.ack .done) }) ∧
      (tagCheck tag = .ok () → s.regs.mode ≠ .tag → s.regs.len = 0 →
        exec (.push b) s = .next
          { s with regs := { r with facets := tag.facets, phase := .csum, cnt := 4 }, rsp := some (.ack .none) }) ∧
      (tagCheck tag = .ok () → s.regs.mode ≠ .tag → s.regs.len ≠ 0 →
        exec (.push b) s = .next
          { s with
            regs := { r with facets := tag.facets, phase := .payload, cnt := s.regs.len }
            rsp := some (.ack .none) }))

/-- 43_chunk_framer R134: `PUSH` in phase `PAYLOAD` with a byte expected absorbs the byte and passes it through. -/
def Obligations.PushInPayloadPassesTheByteThrough : Prop :=
  ∀ (s : State) (b : Byte), s.regs.phase = .payload →
    (s.regs.cnt ≠ 0 → s.regs.cnt - 1 ≠ 0 →
      exec (.push b) s = .next
        { s with
          regs := { s.regs with crc := crcStep s.regs.crc b, cnt := s.regs.cnt - 1 }
          rsp := some (.ack (.payload b)) }) ∧
    (s.regs.cnt - 1 = 0 →
      exec (.push b) s = .next
        { s with
          regs := { s.regs with crc := crcStep s.regs.crc b, phase := .csum, cnt := 4 }
          rsp := some (.ack (.payload b)) })

/-- 43_chunk_framer R136, R137: `PUSH` in phase `CSUM` with a byte expected. The fourth byte compares all 32 bits with
the computed checksum: equal gives the event `CHUNK` and ends `CHUNK` mode or returns to the record boundary; unequal
raises `ChecksumError`. -/
def Obligations.PushInCsumComparesTheChecksum : Prop :=
  ∀ (s : State) (b : Byte) (r : Regs), s.regs.phase = .csum →
    r = { s.regs with csum := s.regs.csum.extractLsb' 0 24 ++ b, cnt := s.regs.cnt - 1 } →
    (s.regs.cnt ≠ 0 → s.regs.cnt - 1 ≠ 0 →
      exec (.push b) s = .next { s with regs := r, rsp := some (.ack .none) }) ∧
    (s.regs.cnt - 1 = 0 → r.csum = s.regs.crc ^^^ 0xFFFFFFFF → s.regs.mode = .chunk →
      exec (.push b) s = .next { s with regs := { r with phase := .done }, rsp := some (.ack .chunk) }) ∧
    (s.regs.cnt - 1 = 0 → r.csum = s.regs.crc ^^^ 0xFFFFFFFF → s.regs.mode ≠ .chunk →
      exec (.push b) s = .next { s with regs := { r with phase := .len, cnt := 4 }, rsp := some (.ack .chunk) }) ∧
    (s.regs.cnt - 1 = 0 → r.csum ≠ s.regs.crc ^^^ 0xFFFFFFFF →
      exec (.push b) s = .next
        { s with
          regs := { r with err := .checksumError, phase := .err }
          rsp := some (.ack (.err .checksumError)) })

/-- 44_container R166 and 41_crc R100's transition: `END` completes a stream, and a container at a record boundary;
nothing but `PHASE` changes. -/
def Obligations.EndCompletesAtABoundary : Prop :=
  ∀ s : State,
    s.regs.phase = .stream ∨ (s.regs.phase = .len ∧ s.regs.mode = .cont ∧ s.regs.cnt = 4) →
    exec .endBuffer s = .next
      { s with regs := { s.regs with phase := .done }, rsp := some (.ack .done) }

/-- 43_chunk_framer R139, 42_typetag R116: `END` inside a field raises `FramingError`, in phase `LEN` wherever it is
no record boundary of a container; the other registers keep their values. -/
def Obligations.EndInsideAFieldIsAFramingError : Prop :=
  ∀ s : State,
    (s.regs.phase = .len ∧ ¬(s.regs.mode = .cont ∧ s.regs.cnt = 4)) ∨ s.regs.phase = .type ∨
      s.regs.phase = .payload ∨ s.regs.phase = .csum →
    exec .endBuffer s = .next
      { s with
        regs := { s.regs with err := .framingError, phase := .err }
        rsp := some (.ack (.err .framingError)) }

/-- 44_container R162: `END` in phase `SIG` raises `SignatureError`; `CNT` keeps the number of missing bytes. -/
def Obligations.EndInsideTheSignatureIsASignatureError : Prop :=
  ∀ s : State, s.regs.phase = .sig →
    exec .endBuffer s = .next
      { s with
        regs := { s.regs with err := .signatureError, phase := .err }
        rsp := some (.ack (.err .signatureError)) }

/-! ### The step function as a whole -/

/-- 40_commands R82: the step function is total and deterministic, gives one response, keeps the invariants, and
depends on nothing but the nine registers, the command and `SIG`; it writes nothing but registers and response. -/
def Obligations.StepFunctionIsTotalAndDeterministic : Prop :=
  ∀ (i : Instr) (s : State), ∃ (r : Regs) (p : Response),
    (∀ s' : State, s'.regs = s.regs → s'.sig = s.sig →
      exec i s' = .next { s' with regs := r, rsp := some p }) ∧
    (s.regs.Inv → r.Inv)

/-- 20_memory R39: commands take effect one at a time in the order issued; the registers and responses along a script
are the left fold of the step function over it. -/
def Obligations.ScriptIsAFoldOfTheStepFunction : Prop :=
  ∀ (is : List Instr) (s : State), (∀ i ∈ is, i.wellFormed = true) →
    (runScriptFrom is s).map (fun t => (t.regs, t.rsp)) =
      (commands s.sig is s.regs).map (fun a => (a.1, some a.2))

/-- 10_state R28 (a) to (h): the invariants hold after every reset, whatever the draw, and every step, whatever the
host drives in it, keeps them; so it is with the words of (g), "the tag in `TYPE` was accepted": there `TYPE` holds a
legal tag and `FACETS` are its facets. -/
def Obligations.EveryStepKeepsTheInvariants : Prop :=
  (∀ n, (Regs.afterReset n).Inv ∧ (Regs.afterReset n).HoldsAcceptedTag) ∧
  (∀ s t : State, s.regs.Inv → step s = .next t →
    t.regs.Inv ∧ (s.regs.HoldsAcceptedTag → t.regs.HoldsAcceptedTag))

/-- 10_state R28: the invariants hold at the state after reset. -/
def Obligations.InvariantsHoldAfterReset : Prop :=
  State.reset.regs.Inv ∧ State.reset.regs.HoldsAcceptedTag

/-- 40_commands R71 and R84: which command is accepted in which phase, for every state. A reserved word is refused always;
`START` is accepted always; `PUSH` and `END` are accepted exactly in the active phases. A refused command changes no
register. -/
def Obligations.AcceptanceTable : Prop :=
  ∀ (i : Instr) (s : State), ∃ (r : Regs) (p : Response), exec i s = .next { s with regs := r, rsp := some p } ∧
    (p = .refused ↔
      isReserved i = true ∨ (isStart i = false ∧
        (s.regs.phase = .idle ∨ s.regs.phase = .done ∨ s.regs.phase = .err))) ∧
    (p = .refused → r = s.regs)

/-- 40_commands R78: from a state of the invariants, a command leads to the phase and the event of its row of the
table, and to no other. -/
def Obligations.PhaseChangesAreTheTransitionTable : Prop :=
  ∀ (i : Instr) (s t : State) (ph : Phase) (rsp : Response), s.regs.Inv → exec i s = .next t →
    (Transition s.sig s.regs i ph rsp ↔ t.regs.phase = ph ∧ t.rsp = some rsp)

/-- 10_state R10, R11, R13 to R19 and R22 to R23: the frame of every command. A register that changes was written by a
command and in a phase that the table of R10 lists for it; `SIG`, the input and the reset counter never change. -/
def Obligations.RegistersChangeOnlyWhereTheirRuleSays : Prop :=
  ∀ (i : Instr) (s t : State), exec i s = .next t →
    (t.regs.mode ≠ s.regs.mode → isStart i = true) ∧
    (t.regs.err ≠ s.regs.err → isStart i = true ∨ (t.regs.phase = .err ∧ ∃ e, t.rsp = some (.ack (.err e)))) ∧
    (t.regs.crc ≠ s.regs.crc → isStart i = true ∨ (isPush i = true ∧
      (s.regs.phase = .stream ∨ s.regs.phase = .type ∨ s.regs.phase = .payload ∨
        (s.regs.phase = .len ∧ s.regs.cnt = 1)))) ∧
    (t.regs.len ≠ s.regs.len → isStart i = true ∨ (isPush i = true ∧ s.regs.phase = .len)) ∧
    (t.regs.type ≠ s.regs.type → isStart i = true ∨ (isPush i = true ∧ s.regs.phase = .type)) ∧
    (t.regs.csum ≠ s.regs.csum → isStart i = true ∨ (isPush i = true ∧ s.regs.phase = .csum)) ∧
    (t.regs.cnt ≠ s.regs.cnt → isStart i = true ∨ (isPush i = true ∧
      (s.regs.phase = .sig ∨ s.regs.phase = .len ∨ s.regs.phase = .type ∨ s.regs.phase = .payload ∨
        s.regs.phase = .csum))) ∧
    (t.regs.facets ≠ s.regs.facets →
      isStart i = true ∨ (isPush i = true ∧ s.regs.phase = .type ∧ s.regs.cnt = 1)) ∧
    (t.regs.phase ≠ s.regs.phase → t.rsp ≠ some .refused) ∧
    t.sig = s.sig ∧ t.input = s.input ∧ t.resets = s.resets

/-- 40_commands R81, its first part: the events a command can give, and exactly when `PUSH` gives which. -/
def Obligations.EventsOfEachCommand : Prop :=
  ∀ (i : Instr) (s t : State), exec i s = .next t →
    (isStart i = true → t.rsp = some (.ack .none)) ∧
    (∀ b, i = .push b →
      ((∃ x, t.rsp = some (.ack (.payload x))) ↔ s.regs.phase = .payload) ∧
      (∀ x, t.rsp = some (.ack (.payload x)) → x = b) ∧
      (t.rsp = some (.ack .chunk) ↔ s.regs.phase = .csum ∧ s.regs.cnt = 1 ∧
        shiftIn s.regs.csum b = crcOut s.regs.crc) ∧
      (t.rsp = some (.ack .done) ↔ s.regs.phase = .type ∧ s.regs.cnt = 1 ∧ s.regs.mode = .tag ∧
        tagCheck (TypeTag.ofWord (shiftIn s.regs.type b)) = .ok ())) ∧
    (i = .endBuffer → t.rsp = some .refused ∨ t.rsp = some (.ack .done) ∨ ∃ e, t.rsp = some (.ack (.err e)))

/-- 40_commands R81, its last sentence, and R83's: after the event `DONE` or `ERR` every command up to the next `START` is
refused and changes no register, so an operation gives at most one such event and it is the last that is not refused. -/
def Obligations.NothingIsAcceptedAfterDoneOrErr : Prop :=
  ∀ (is : List Instr) (s : State), (∀ i ∈ is, i.wellFormed = true ∧ isStart i = false) →
    ∀ (k k' : Nat) (t t' : State), (runScriptFrom is s)[k]? = some t → isFinal t.rsp = true →
      (runScriptFrom is s)[k']? = some t' → k < k' → t'.rsp = some .refused ∧ t'.regs = t.regs

/-- 60_exceptions R205, 10_state R13: the only exits from phase `ERR` are `START` and reset; until then `ERR` keeps its
value, as does every other register. -/
def Obligations.OnlyStartAndResetLeaveTheErrorPhase : Prop :=
  ∀ s t : State, s.regs.phase = .err → step s = .next t →
    t.regs = s.regs ∨
    (∃ c rest, s.input = { reset := true, command := c } :: rest) ∨
    (∃ w rest, s.input = { reset := false, command := some w } :: rest ∧ isStart (decode w) = true)

/-- 40_commands R83: every run has an outcome, and only one: some response decides for success or for an error, and no run
holds responses that decide differently. -/
def Obligations.EveryRunHasExactlyOneOutcome : Prop :=
  ∀ (mode : Mode) (buf : List Byte) (s : State),
    ∃ o, outcome mode (run mode buf s) = some o ∧
      ∀ t ∈ run mode buf s, ∀ o', decides mode t.rsp = some o' → o' = o

/-! ### What the host sees -/

/-- 30_encoding R60: the response word, event by event; event codes 5 to 7 are never produced, and 0x800 is the only
word of a refusal. -/
def Obligations.ResponseWordLayout : Prop :=
  (Response.ack .none).word = 0x000 ∧ (∀ b : Byte, (Response.ack (.payload b)).word = 0x100#12 + b.setWidth 12) ∧
  (Response.ack .chunk).word = 0x200 ∧ (Response.ack .done).word = 0x300 ∧
  (∀ e : ErrorKind, (Response.ack (.err e)).word = 0x400#12 + e.toErr.code.setWidth 12) ∧
  Response.refused.word = 0x800 ∧
  (∀ p : Response, (p.word.extractLsb' 8 3).toNat ≤ 4 ∧ (p.word.getLsbD 11 = true ↔ p = .refused))

/-- 10_state R20, R21 and 30_encoding R62: the status port shows the nine registers under their codes and
`CRC_OUT = CRC xor 0xFFFFFFFF`. -/
def Obligations.StatusPortShowsTheRegisters : Prop :=
  (∀ r : Regs, r.statusPort =
    { mode := r.mode.code, phase := r.phase.code, err := r.err.code, crc := r.crc, crcOut := r.crc ^^^ 0xFFFFFFFF,
      len := r.len, type := r.type, csum := r.csum, cnt := r.cnt, facets := r.facets }) ∧
  (Phase.code .idle = 0 ∧ Phase.code .sig = 1 ∧ Phase.code .len = 2 ∧ Phase.code .type = 3 ∧
    Phase.code .payload = 4 ∧ Phase.code .csum = 5 ∧ Phase.code .stream = 6 ∧ Phase.code .done = 7 ∧
    Phase.code .err = 8) ∧
  (Mode.code .crc = 0 ∧ Mode.code .tag = 1 ∧ Mode.code .chunk = 2 ∧ Mode.code .cont = 3) ∧
  (Err.code .none = 0 ∧ Err.code .signatureError = 1 ∧ Err.code .framingError = 2 ∧ Err.code .reservedBitError = 3 ∧
    Err.code .invalidByteError = 4 ∧ Err.code .checksumError = 5)

/-! ### The CRC unit -/

/-- 41_crc R96: the lsb-first form of R93 and R94 and the shift register of R90 give the same checksum of every
message. -/
def Obligations.BothFormsOfTheCrcAgree : Prop :=
  ∀ m : List Byte, crc32Msb m = crc32 m

/-- 41_crc R97: the byte-at-a-time table form. -/
def Obligations.CrcStepIsOneTableLookup : Prop :=
  (∀ (c : Word) (b : Byte),
    crcStep c b = (c >>> 8) ^^^ crcTable ((c ^^^ b.setWidth 32).extractLsb' 0 8)) ∧
  crcTable 0x00 = 0x00000000 ∧ crcTable 0x01 = 0x77073096 ∧ crcTable 0x02 = 0xEE0E612C ∧
  crcTable 0x80 = 0xEDB88320 ∧ crcTable 0xFF = 0x2D02EF8D

/-- 41_crc R99: `crc_step` is a bijection of the register for each byte, and linear over xor in the pair. -/
def Obligations.CrcStepIsBijectiveAndLinear : Prop :=
  (∀ b : Byte, Function.Bijective fun c => crcStep c b) ∧
  (∀ (c d : Word) (b e : Byte), crcStep (c ^^^ d) (b ^^^ e) = crcStep c b ^^^ crcStep d e) ∧
  crcStep 0 0 = 0

/-- 41_crc R102: the checksums of the empty message and of two single bytes, one flipped bit always changes the
checksum, and the order of the bytes matters. -/
def Obligations.CrcSeesEveryOneBitDifference : Prop :=
  crc32 [] = 0x00000000 ∧ crc32 [0x00] = 0xD202EF8D ∧ crc32 [0xFF] = 0xFF000000 ∧
  (∀ (m : List Byte) (pos j : Nat), pos < m.length → j < 8 → crc32 (flipBit m pos j) ≠ crc32 m) ∧
  (∃ a b : Byte, crc32 [a, b] ≠ crc32 [b, a])

/-- 41_crc R95, R100: in a `CRC` run `CRC_OUT` shows after every `PUSH` the checksum of the bytes so far, and `END`
keeps that of the whole message in phase `DONE`; the run cannot fail. R100's example closes it. -/
def Obligations.CrcRunGivesTheChecksum : Prop :=
  (∀ (s : State) (m : List Byte),
    (∀ k ≤ m.length, ∃ t, (run .crc m s)[k]? = some t ∧ t.regs.phase = .stream ∧ t.regs.err = .none ∧
      t.regs.statusPort.crcOut = crc32 (m.take k)) ∧
    (∃ t, (run .crc m s).getLast? = some t ∧ t.regs.phase = .done ∧ t.rsp = some (.ack .done) ∧
      t.regs.statusPort.crcOut = crc32 m)) ∧
  (∀ s : State, ∃ t, (run .crc [0x49, 0x45, 0x4E, 0x44] s).getLast? = some t ∧
    t.regs.statusPort.crcOut = 0xAE426082)

/-! ### The type tag -/

/-- 42_typetag R105: the byte classes, and what a single bit says of an alphabetic byte. -/
def Obligations.ByteClassesAreRanges : Prop :=
  (∀ b : Byte, (isUpper b = true ↔ 0x41 ≤ b.toNat ∧ b.toNat ≤ 0x5A) ∧
    (isLower b = true ↔ 0x61 ≤ b.toNat ∧ b.toNat ≤ 0x7A) ∧
    (isAlpha b = true ↔ isUpper b = true ∨ isLower b = true) ∧
    (0x80 ≤ b.toNat → isAlpha b = false) ∧
    (isAlpha b = true → isLower b = !isUpper b ∧ isUpper b = !b.getLsbD 5)) ∧
  (∃ b : Byte, isAlpha b = false ∧ isLower b ≠ !isUpper b) ∧
  (∃ b : Byte, isAlpha b = false ∧ isUpper b ≠ !b.getLsbD 5)

/-- 42_typetag R107, R108, R109 and 10_state R19: the order of the two tests, the facets, and that `valid` holds
exactly when the tag is accepted, for every tag. -/
def Obligations.TagCheckAndFacets : Prop :=
  ∀ t : TypeTag,
    (isUpper t.t2 = false → tagCheck t = .error .reservedBitError) ∧
    (isUpper t.t2 = true → (∃ b ∈ t.bytes, isAlpha b = false) → tagCheck t = .error .invalidByteError) ∧
    (isUpper t.t2 = true → (∀ b ∈ t.bytes, isAlpha b = true) → tagCheck t = .ok ()) ∧
    t.facets.getLsbD 0 = isUpper t.t0 ∧ t.facets.getLsbD 1 = isUpper t.t1 ∧ t.facets.getLsbD 2 = isUpper t.t2 ∧
    t.facets.getLsbD 3 = isLower t.t3 ∧ t.facets.getLsbD 4 = t.valid ∧
    (t.valid = true ↔ (∀ b ∈ t.bytes, isAlpha b = true) ∧ isUpper t.t2 = true) ∧
    (t.valid = true ↔ tagCheck t = .ok ())

/-- 42_typetag R112 and the source's examples: `"RuSt"` and `"ruSt"` are accepted, `"Rust"` and `"Ru1t"` fail with
`ReservedBitError`. -/
def Obligations.TagExamples : Prop :=
  tagCheck ⟨0x52, 0x75, 0x53, 0x74⟩ = .ok () ∧ tagCheck ⟨0x72, 0x75, 0x53, 0x74⟩ = .ok () ∧
  tagCheck ⟨0x52, 0x75, 0x73, 0x74⟩ = .error .reservedBitError ∧
  tagCheck ⟨0x52, 0x75, 0x31, 0x74⟩ = .error .reservedBitError ∧
  TypeTag.facets ⟨0x52, 0x75, 0x53, 0x74⟩ = 0b11101 ∧ TypeTag.facets ⟨0x72, 0x75, 0x53, 0x74⟩ = 0b11100

/-- 42_typetag R110: the set of legal tags, and its size `52 * 52 * 26 * 52`. -/
def Obligations.NumberOfLegalTags : Prop :=
  (∀ t : TypeTag, tagCheck t = .ok () ↔
    isAlpha t.t0 = true ∧ isAlpha t.t1 = true ∧ isUpper t.t2 = true ∧ isAlpha t.t3 = true) ∧
  (Set.ncard { t : TypeTag | tagCheck t = .ok () } = 3655808)

/-- 42_typetag R115, R113: `RUN.TAG t` from any state decides at the fourth `PUSH` exactly as `tag_check`, with the
tag in `TYPE` and its facets in `FACETS`; the `END` is refused. -/
def Obligations.TagRunAgreesWithTagCheck : Prop :=
  (∀ (s : State) (tag : TypeTag), ∃ t u,
    (run .tag tag.bytes s)[4]? = some t ∧ (run .tag tag.bytes s)[5]? = some u ∧
    t.regs.type = tag.toWord ∧ t.regs.facets = tag.facets ∧ t.regs.cnt = 0 ∧ t.regs.statusPort.crcOut = crc32 tag.bytes ∧
    (tagCheck tag = .ok () → t.regs.phase = .done ∧ t.regs.err = .none ∧ t.rsp = some (.ack .done)) ∧
    (∀ e, tagCheck tag = .error e →
      t.regs.phase = .err ∧ t.regs.err = e.toErr ∧ t.rsp = some (.ack (.err e))) ∧
    outcome .tag (run .tag tag.bytes s) = some (tagCheck tag) ∧
    u.rsp = some .refused ∧ u.regs = t.regs) ∧
  (∀ s : State, ∃ t, (run .tag [0x72, 0x75, 0x53, 0x74] s)[4]? = some t ∧ t.regs.phase = .done ∧ t.regs.facets = 0x1C)

/-! ### Chunks -/

/-- 30_encoding R53, 20_memory R33, 00_scope R7: four bytes shifted into a field are its big-endian value whatever it
held; the first byte is the most significant; `be32` and `unbe32` are inverse. -/
def Obligations.FourBytesAssembleBigEndian : Prop :=
  (∀ (reg : Word) (b0 b1 b2 b3 : Byte),
    shiftIn (shiftIn (shiftIn (shiftIn reg b0) b1) b2) b3 = unbe32 b0 b1 b2 b3) ∧
  (∀ b0 b1 b2 b3 : Byte,
    (unbe32 b0 b1 b2 b3).toNat = b0.toNat * 2 ^ 24 + b1.toNat * 2 ^ 16 + b2.toNat * 2 ^ 8 + b3.toNat) ∧
  (∀ b0 b1 b2 b3 : Byte, be32 (unbe32 b0 b1 b2 b3) = [b0, b1, b2, b3]) ∧
  (∀ t : TypeTag, TypeTag.ofWord t.toWord = t ∧ t.toWord = unbe32 t.t0 t.t1 t.t2 t.t3)

/-- 43_chunk_framer R143, R128, R129: decoding an encoded legal chunk gives it back and leaves what follows it
untouched; a successful decode took exactly `12 + L` bytes, which are the encoding of the chunk it gives, and that
chunk is consistent and legal.
For every length (30_encoding R47); that no platform bounds it is U14's assumption, notes/assumptions/21.md. -/
def Obligations.ChunkRoundTrip : Prop :=
  (∀ (t : TypeTag) (p : List Byte) (c : Chunk) (rest : List Byte), tagCheck t = .ok () → createChunk t p = some c →
    decodeChunk (encodeChunk c ++ rest) = .ok (c, rest)) ∧
  (∀ (buf rest : List Byte) (c : Chunk), decodeChunk buf = .ok (c, rest) →
    encodeChunk c = buf.take (12 + c.length.toNat) ∧ rest = buf.drop (12 + c.length.toNat) ∧
    12 + c.length.toNat ≤ buf.length ∧ c.consistent ∧ c.legalType) ∧
  (∀ (t : TypeTag) (p : List Byte) (c : Chunk) (e : ErrorKind), tagCheck t = .error e → createChunk t p = some c →
    decodeChunk (encodeChunk c) = .error e)

/-- 43_chunk_framer R144: any one bit of the payload or the checksum field of an encoded legal chunk, flipped, makes
the decode fail with `ChecksumError`; a flipped bit of the type gives the error of the new tag, or `ChecksumError`
where that is legal; a flipped bit of the length can give `FramingError` and can give `ChecksumError`.
For every length (30_encoding R47); that no platform bounds it is U14's assumption, notes/assumptions/21.md. -/
def Obligations.OneFlippedBitIsDetected : Prop :=
  (∀ (c : Chunk) (rest : List Byte) (pos j : Nat), c.consistent → c.legalType → j < 8 →
    (8 ≤ pos → pos < (encodeChunk c).length →
      decodeChunk (flipBit (encodeChunk c) pos j ++ rest) = .error .checksumError) ∧
    (4 ≤ pos → pos < 8 → ∀ t : TypeTag, t.bytes = flipBit c.type.bytes (pos - 4) j →
      decodeChunk (flipBit (encodeChunk c) pos j ++ rest) =
        match tagCheck t with
        | .error e => .error e
        | .ok () => .error .checksumError)) ∧
  (∃ (c : Chunk) (pos j : Nat), c.consistent ∧ c.legalType ∧ pos < 4 ∧ j < 8 ∧
    decodeChunk (flipBit (encodeChunk c) pos j) = .error .framingError) ∧
  (∃ (c : Chunk) (pos j : Nat), c.consistent ∧ c.legalType ∧ pos < 4 ∧ j < 8 ∧
    decodeChunk (flipBit (encodeChunk c) pos j) = .error .checksumError)

/-- 43_chunk_framer R145: the machine in `CHUNK` mode computes `decode_chunk`, for every buffer and from every state.
The outcome is the function's; on success the `CHUNK` event comes at `PUSH` number `12 + L`, the payload events before
it and the registers at it are the chunk, and everything later is refused; on failure the `ERR` event comes where the
rule says.
For every length (30_encoding R47); that no platform bounds it is U14's assumption, notes/assumptions/21.md. -/
def Obligations.ChunkRunComputesDecodeChunk : Prop :=
  ∀ (s : State) (buf : List Byte),
    (∀ (c : Chunk) (rest : List Byte), decodeChunk buf = .ok (c, rest) →
      outcome .chunk (run .chunk buf s) = some (.ok ()) ∧
      committed (observeRun .chunk buf s) = [.ok [c]] ∧
      ∃ t, (run .chunk buf s)[12 + c.length.toNat]? = some t ∧ t.rsp = some (.ack .chunk) ∧
        payloadEvents ((run .chunk buf s).take (12 + c.length.toNat)) = c.payload ∧
        chunkAt t.regs c.payload = c ∧ t.regs.facets = c.type.facets ∧
        ∀ k u, 12 + c.length.toNat < k → (run .chunk buf s)[k]? = some u →
          u.rsp = some .refused ∧ u.regs = t.regs) ∧
    (∀ e, decodeChunk buf = .error e →
      outcome .chunk (run .chunk buf s) = some (.error e) ∧
      committed (observeRun .chunk buf s) = [.error e] ∧
      ∃ k t, (run .chunk buf s)[k]? = some t ∧ t.rsp = some (.ack (.err e)) ∧
        ((e = .reservedBitError ∨ e = .invalidByteError) ∧ k = 8 ∨
         e = .framingError ∧ k = buf.length + 1 ∨
         e = .checksumError ∧ ∃ l0 l1 l2 l3 r, buf = l0 :: l1 :: l2 :: l3 :: r ∧ k = 12 + (unbe32 l0 l1 l2 l3).toNat))

/-! ### Containers -/

/-- 44_container R170, R158: decoding an encoded container of legal chunks gives the chunks back, the empty list included;
encoding a decoded container gives the buffer back, and its chunks are consistent and legal. For every signature.
For every length (30_encoding R47); that no platform bounds it is U14's assumption, notes/assumptions/21.md. -/
def Obligations.ContainerRoundTrip : Prop :=
  ∀ sig : Config.Signature,
    (∀ cs : List Chunk, (∀ c ∈ cs, c.consistent ∧ c.legalType) →
      decodeContainer sig (encodeContainer sig cs) = .ok cs) ∧
    (∀ (buf : List Byte) (cs : List Chunk), decodeContainer sig buf = .ok cs →
      encodeContainer sig cs = buf ∧ ∀ c ∈ cs, c.consistent ∧ c.legalType)

/-- 60_exceptions R203, 43_chunk_framer R127, 44_container R159: the earliest defect decides. In a tag the reserved
bit comes before the alphabetic test, whatever else is wrong with it; in a record a missing length or type byte comes
first, then an illegal tag whatever follows it, then a payload or checksum cut short, then the checksum; in a buffer
the signature comes before everything and then the first record that fails, whatever follows it.
For every length (30_encoding R47); that no platform bounds it is U14's assumption, notes/assumptions/21.md. -/
def Obligations.TheEarliestDefectDecides : Prop :=
  (∀ (l0 l1 l2 l3 : Byte) (t : TypeTag) (r : List Byte), isUpper t.t2 = false →
    decodeChunk ([l0, l1, l2, l3] ++ t.bytes ++ r) = .error .reservedBitError) ∧
  (∀ (l0 l1 l2 l3 : Byte) (t : TypeTag) (r : List Byte), isUpper t.t2 = true →
    (∃ b ∈ t.bytes, isAlpha b = false) →
      decodeChunk ([l0, l1, l2, l3] ++ t.bytes ++ r) = .error .invalidByteError) ∧
  (∀ buf : List Byte, buf.length < 8 → decodeChunk buf = .error .framingError) ∧
  (∀ (l0 l1 l2 l3 : Byte) (t : TypeTag) (r : List Byte), tagCheck t = .ok () →
    r.length < (unbe32 l0 l1 l2 l3).toNat + 4 →
      decodeChunk ([l0, l1, l2, l3] ++ t.bytes ++ r) = .error .framingError) ∧
  (∀ (l0 l1 l2 l3 c0 c1 c2 c3 : Byte) (t : TypeTag) (p rest : List Byte), tagCheck t = .ok () →
    p.length = (unbe32 l0 l1 l2 l3).toNat → unbe32 c0 c1 c2 c3 ≠ crc32 (t.bytes ++ p) →
      decodeChunk ([l0, l1, l2, l3] ++ t.bytes ++ p ++ [c0, c1, c2, c3] ++ rest) = .error .checksumError) ∧
  (∀ (sig : Config.Signature) (buf : List Byte), ¬ sig.toList <+: buf →
    decodeContainer sig buf = .error .signatureError) ∧
  (∀ (sig : Config.Signature) (cs : List Chunk) (bad : List Byte) (e : ErrorKind),
    (∀ c ∈ cs, c.consistent ∧ c.legalType) → bad ≠ [] → decodeChunk bad = .error e →
      decodeContainer sig (encodeContainer sig cs ++ bad) = .error e)

/-- 44_container R171, R168, R167: the machine in `CONT` mode computes `decode_container`: it commits exactly one
result, the function's, the same chunks in the same order or the same error alone, for every buffer, every signature
and from every state.
For every length (30_encoding R47); that no platform bounds it is U14's assumption, notes/assumptions/21.md. -/
def Obligations.ContainerRunComputesDecodeContainer : Prop :=
  ∀ (s : State) (buf : List Byte),
    committed (observeRun .cont buf s) = [decodeContainer s.sig buf]

/-- 44_container R171's second sentence: where the `ERR` event of a container run comes. `SignatureError` at the first
byte that differs, or at `END` when the buffer ends before; any other error where the same record alone would give it
in `CHUNK` mode, counted from the record's first byte.
For every length (30_encoding R47); that no platform bounds it is U14's assumption, notes/assumptions/21.md. -/
def Obligations.ContainerErrorsArriveAtTheDefect : Prop :=
  ∀ s : State,
    (∀ (k : Nat) (b : Byte) (rest : List Byte) (hk : k < 8), b ≠ s.sig[k] →
      ((run .cont (s.sig.toList.take k ++ b :: rest) s)[k + 1]?).map State.rsp =
        some (some (.ack (.err .signatureError)))) ∧
    (∀ k < 8, ((run .cont (s.sig.toList.take k) s)[k + 1]?).map State.rsp =
        some (some (.ack (.err .signatureError)))) ∧
    (∀ (cs : List Chunk) (bad : List Byte) (k : Nat) (e : ErrorKind) (t : State),
      (∀ c ∈ cs, c.consistent ∧ c.legalType) → bad ≠ [] →
      (run .chunk bad s)[k]? = some t → t.rsp = some (.ack (.err e)) →
      ((run .cont (encodeContainer s.sig cs ++ bad) s)[(encodeContainer s.sig cs).length + k]?).map State.rsp =
        some (some (.ack (.err e))))

/-- 70_reset R225, 44_container R168: what the consumer does at each step. A response that ends no operation commits nothing; a
payload byte and a chunk are held back until `DONE`, in `CHUNK` mode until the `CHUNK` event; everything provisional is
gone after `ERR`, whose result is the error alone, after `START` and after reset. R225 says this of a `START` in an active
phase; that a `START` in a resting phase discards as well is the model's choice (notes/assumptions/12.md). -/
def Obligations.ProvisionalEventsAreHeldBackAndDiscarded : Prop :=
  (∀ (c : Consumer) (o : Input × State), (c.see o).results ≠ c.results →
    isFinal o.2.rsp = true ∨ (o.2.rsp = some (.ack .chunk) ∧ o.2.regs.mode = .chunk)) ∧
  (∀ (c : Consumer) (o : Input × State), (c.see o).results ≠ c.results →
    (c.see o).payload = [] ∧ (c.see o).chunks = []) ∧
  (∀ (c : Consumer) (t : State) (cmd : Option CmdWord),
    c.see ({ reset := true, command := cmd }, t) = { payload := [], chunks := [], results := c.results }) ∧
  (∀ (c : Consumer) (t : State) (w : CmdWord), isStart (decode w) = true →
    c.see ({ reset := false, command := some w }, t) = { payload := [], chunks := [], results := c.results }) ∧
  (∀ (c : Consumer) (t : State) (w : CmdWord) (b : Byte), isStart (decode w) = false →
    t.rsp = some (.ack (.payload b)) →
      c.see ({ reset := false, command := some w }, t) = { c with payload := c.payload ++ [b] }) ∧
  (∀ (c : Consumer) (t : State) (w : CmdWord), isStart (decode w) = false → t.rsp = some (.ack .chunk) →
    (t.regs.mode ≠ .chunk →
      c.see ({ reset := false, command := some w }, t) =
        { c with payload := [], chunks := c.chunks ++ [chunkAt t.regs c.payload] }) ∧
    (t.regs.mode = .chunk →
      c.see ({ reset := false, command := some w }, t) =
        { payload := [], chunks := [],
          results := c.results ++ [.ok (c.chunks ++ [chunkAt t.regs c.payload])] })) ∧
  (∀ (c : Consumer) (t : State) (w : CmdWord), isStart (decode w) = false → t.rsp = some (.ack .done) →
    c.see ({ reset := false, command := some w }, t) =
      { payload := [], chunks := [], results := c.results ++ [.ok c.chunks] }) ∧
  (∀ (c : Consumer) (t : State) (w : CmdWord) (e : ErrorKind), isStart (decode w) = false →
    t.rsp = some (.ack (.err e)) →
      c.see ({ reset := false, command := some w }, t) =
        { payload := [], chunks := [], results := c.results ++ [.error e] })

/-- 40_commands R84, 70_reset R225: an operation abandoned by `START` or by reset leaves nothing behind. Whatever the
host drove before, the results committed from the `START` or the reset on are those the same inputs give from any
state with the same signature, and the earlier results stay as they were; so a run after anything commits its own
result alone.
The `START` may come in any phase; in a resting phase, where nothing is abandoned, the statement rests on the model's choice
that the consumer discards there too (notes/assumptions/12.md).For every length (30_encoding R47); that no
platform bounds it is U14's assumption, notes/assumptions/21.md. -/
def Obligations.AbandonedOperationsLeaveNothingBehind : Prop :=
  (∀ (before after : List Input) (x : Input) (s s' : State), s.sig = s'.sig →
    (x.reset = true ∨ ∃ w, x.command = some w ∧ isStart (decode w) = true) →
      committed (observeFrom (before ++ x :: after) s) =
        committed (observeFrom before s) ++ committed (observeFrom (x :: after) s')) ∧
  (∀ (before : List Input) (buf : List Byte) (s : State),
    committed (observeFrom (before ++ (runScript .cont buf).map issue) s) =
      committed (observeFrom before s) ++ [decodeContainer s.sig buf])

/-! ### The software around the block (informative in the spec) -/

/-- 45_software_context R193: the source's end-to-end scenario, for every signature: the buffer of one chunk `"teXt"` with
payload `"hello"` decodes, in the function and on the machine, the chunk is found by its type, its payload reads as text,
and encoding gives the buffer back. -/
def Obligations.EndToEndScenario : Prop :=
  ∀ (s : State) (c : Chunk), createChunk ⟨0x74, 0x65, 0x58, 0x74⟩ [0x68, 0x65, 0x6C, 0x6C, 0x6F] = some c →
    c.checksum = 0xA3F69134 ∧
    decodeContainer s.sig (encodeContainer s.sig [c]) = .ok [c] ∧
    committed (observeRun .cont (encodeContainer s.sig [c]) s) = [.ok [c]] ∧
    Software.findByType [c] ['t', 'e', 'X', 't'] = some c ∧
    Software.payloadAsText c = .ok ['h', 'e', 'l', 'l', 'o'] ∧
    Software.encode s.sig [c] = s.sig.toList ++ be32 5 ++ [0x74, 0x65, 0x58, 0x74, 0x68, 0x65, 0x6C, 0x6C, 0x6F] ++
      [0xA3, 0xF6, 0x91, 0x34]

/-- 45_software_context R180, R181, R182: removing takes out the first chunk of that type and no other; removing an absent
type is `NotFoundError`, while looking one up gives nothing. Over a list that holds a chunk whose type has no text form, that
both pass over that chunk is the model's choice, on which the rules are silent (notes/assumptions/19.md). -/
def Obligations.RemoveTakesTheFirstOfItsType : Prop :=
  ∀ (pre post : List Chunk) (c : Chunk) (name : List Char),
    (∀ d ∈ pre, Software.hasTypeName name d = false) →
    (Software.hasTypeName name c = true →
      Software.remove (pre ++ c :: post) name = .ok (pre ++ post) ∧
      Software.findByType (pre ++ c :: post) name = some c) ∧
    Software.remove pre name = .error .notFoundError ∧ Software.findByType pre name = none
end

