-- ==== Sys2Proof/Laws/State.lean ====
section
/-! SUPPORT. The small lemmas of State: what each update does to each field. -/

namespace Sys2Proof.Machine

variable (s : State) (is : List Instr) (nbits w : Nat)

@[simp] theorem State.applyReset_regs : s.applyReset.regs = Regs.afterReset s.resets := rfl
@[simp] theorem State.applyReset_sig : s.applyReset.sig = s.sig := rfl
@[simp] theorem State.applyReset_input : s.applyReset.input = s.input := rfl
@[simp] theorem State.applyReset_rsp : s.applyReset.rsp = none := rfl
@[simp] theorem State.applyReset_resets : s.applyReset.resets = s.resets + 1 := rfl

@[simp] theorem State.stayIdle_regs : s.stayIdle.regs = s.regs := rfl
@[simp] theorem State.stayIdle_sig : s.stayIdle.sig = s.sig := rfl
@[simp] theorem State.stayIdle_input : s.stayIdle.input = s.input := rfl
@[simp] theorem State.stayIdle_rsp : s.stayIdle.rsp = none := rfl
@[simp] theorem State.stayIdle_resets : s.stayIdle.resets = s.resets := rfl

@[simp] theorem State.withScript_regs : (s.withScript is).regs = s.regs := rfl
@[simp] theorem State.withScript_sig : (s.withScript is).sig = s.sig := rfl
@[simp] theorem State.withScript_input : (s.withScript is).input = is.map issue := rfl
@[simp] theorem State.withScript_rsp : (s.withScript is).rsp = s.rsp := rfl
@[simp] theorem State.withScript_resets : (s.withScript is).resets = s.resets := rfl

@[simp] theorem State.withFetchWord_regs : (s.withFetchWord nbits w).regs = s.regs := rfl
@[simp] theorem State.withFetchWord_sig : (s.withFetchWord nbits w).sig = s.sig := rfl
@[simp] theorem State.withFetchWord_rsp : (s.withFetchWord nbits w).rsp = s.rsp := rfl
@[simp] theorem State.withFetchWord_resets : (s.withFetchWord nbits w).resets = s.resets := rfl

@[simp] theorem Regs.afterReset_mode (n : Nat) : (Regs.afterReset n).mode = .crc := rfl
@[simp] theorem Regs.afterReset_phase (n : Nat) : (Regs.afterReset n).phase = .idle := rfl
@[simp] theorem Regs.afterReset_err (n : Nat) : (Regs.afterReset n).err = .none := rfl

/-- Two sets of registers that agree in each of the nine are equal. -/
theorem Regs.eq_of_fields {r r' : Regs} (hm : r.mode = r'.mode) (hp : r.phase = r'.phase) (he : r.err = r'.err)
    (hc : r.crc = r'.crc) (hl : r.len = r'.len) (ht : r.type = r'.type) (hs : r.csum = r'.csum)
    (hn : r.cnt = r'.cnt) (hf : r.facets = r'.facets) : r = r' := by
  cases r; cases r'; simp_all

end Sys2Proof.Machine
end

