-- ==== Sys2Proof/Laws/Ops.lean ====
section
/-! SUPPORT. One lemma per shared operation: everything it does to the registers and what it answers. -/

namespace Sys2Proof.Machine

variable (r : Regs)

@[simp] theorem accept_regs (e : Event) : (accept e r).1 = r := rfl
@[simp] theorem accept_rsp (e : Event) : (accept e r).2 = .ack e := rfl

@[simp] theorem refuse_regs : (refuse r).1 = r := rfl
@[simp] theorem refuse_rsp : (refuse r).2 = .refused := rfl

@[simp] theorem raise_regs (e : ErrorKind) : (raise e r).1 = { r with err := e.toErr, phase := .err } := rfl
@[simp] theorem raise_rsp (e : ErrorKind) : (raise e r).2 = .ack (.err e) := rfl

@[simp] theorem beginOperation_rsp (m : Mode) (p : Phase) (c : Word) : (beginOperation m p c).2 = .ack .none := rfl

/-- Beginning an operation writes all nine registers and reads none. -/
theorem beginOperation_regs (m : Mode) (p : Phase) (c : Word) :
    (beginOperation m p c).1 =
      { mode := m, phase := p, err := .none, crc := Config.crcInit, len := 0, type := 0, csum := 0, cnt := c,
        facets := 0 } := rfl

/-- A command's answer is a next state that differs in the registers and the response only. -/
theorem State.answer_eq (s : State) (a : Regs × Response) :
    s.answer a = .next { s with regs := a.1, rsp := some a.2 } := rfl

theorem State.answer_next {s t : State} {a : Regs × Response} (h : s.answer a = .next t) :
    t.regs = a.1 ∧ t.rsp = some a.2 ∧ t.sig = s.sig ∧ t.input = s.input ∧ t.resets = s.resets := by
  obtain rfl : { s with regs := a.1, rsp := some a.2 } = t := by simpa [State.answer] using h
  exact ⟨rfl, rfl, rfl, rfl, rfl⟩

/-- No error is recorded as `NONE`. -/
theorem ErrorKind.toErr_ne_none (e : ErrorKind) : e.toErr ≠ .none := by cases e <;> decide

/-- In the invariant's range the expected signature byte is the one at index `8 - CNT`. -/
theorem expectedSigByte_eq (sig : Config.Signature) (cnt : Word) (h1 : 1 ≤ cnt.toNat) (h8 : cnt.toNat ≤ 8) :
    expectedSigByte sig cnt = sig[8 - cnt.toNat]? := by
  have : (8 - cnt).toNat = 8 - cnt.toNat := by bv_omega
  rw [expectedSigByte, this]

/-- Outside the invariant's range there is no expected signature byte. -/
theorem expectedSigByte_outside (sig : Config.Signature) (cnt : Word) (h : cnt = 0 ∨ 8 < cnt.toNat) :
    expectedSigByte sig cnt = none := by
  have : 8 ≤ (8 - cnt).toNat := by
    rcases h with rfl | h
    · decide
    · bv_omega
  simp only [expectedSigByte, Vector.getElem?_eq_none_iff]
  exact this

/-- `CNT - 1` is zero exactly when one byte was expected. -/
theorem cnt_pred_eq_zero_iff (c : Word) : c - 1 = 0 ↔ c.toNat = 1 := by
  constructor <;> intro h <;> bv_omega

/-- Counting down a register that is not zero. -/
theorem cnt_pred_toNat (c : Word) (h : 1 ≤ c.toNat) : (c - 1).toNat = c.toNat - 1 := by bv_omega

end Sys2Proof.Machine
end

