-- ==== Sys2Proof/Laws/Exec.lean ====
section
/-! SUPPORT. What executing a command can do, said once: `exec` is `command` on the registers. -/

namespace Sys2Proof.Machine

/-- Every meaning is the spec's step function on the registers (40_commands R82). -/
theorem exec_eq_answer (i : Instr) (s : State) : exec i s = s.answer (command s.sig i s.regs) := by
  cases i <;> rfl

/-- If a command answers a next state, that state differs from the one before in registers and response only. -/
theorem exec_next {i : Instr} {s t : State} (h : exec i s = .next t) :
    t = { s with regs := (command s.sig i s.regs).1, rsp := some (command s.sig i s.regs).2 } := by
  rw [exec_eq_answer, State.answer_eq] at h
  exact (Host.Outcome.next.inj h).symm

/-- A `PUSH` in each phase. -/
theorem push_of_phase (sig : Config.Signature) (b : Byte) (r : Regs) :
    push sig b r =
      if r.phase = .stream then pushStream b r else if r.phase = .sig then pushSig sig b r
      else if r.phase = .len then pushLen b r else if r.phase = .type then pushType b r
      else if r.phase = .payload then pushPayload b r else if r.phase = .csum then pushCsum b r
      else refuse r := by
  rcases h : r.phase <;> simp [push, h]

/-- A `START` reads no register. -/
theorem command_start (sig : Config.Signature) (m : Mode) (r r' : Regs) :
    command sig m.start r = command sig m.start r' := by cases m <;> rfl

end Sys2Proof.Machine
end

