-- ==== Sys2Proof/Laws/Commands.lean ====
section
/-! SUPPORT. Everything `PUSH` and `END` can do, said once: one case per branch of the rules, with the condition it runs
under, the registers it leaves and the response. Later proofs split these cases and never unfold the operations. -/

namespace Sys2Proof.Machine

/-- The registers after a type byte has been shifted in, absorbed and counted (42_typetag R114). -/
def Regs.afterTypeByte (r : Regs) (b : Byte) : Regs :=
  { r with type := shiftIn r.type b, crc := crcStep r.crc b, cnt := r.cnt - 1 }

/-- The tag complete after the type byte `b`. -/
def Regs.tagAfter (r : Regs) (b : Byte) : TypeTag := TypeTag.ofWord (shiftIn r.type b)

/-- What `PUSH b` does, branch by branch. -/
inductive PushCase (sig : Config.Signature) (b : Byte) (r : Regs) : Regs × Response → Prop where
  | resting (hp : r.phase.isActive = false) : PushCase sig b r (r, .refused)
  | stream (hp : r.phase = .stream) :
      PushCase sig b r ({ r with crc := crcStep r.crc b }, .ack .none)
  | sigMore (hp : r.phase = .sig) (hb : expectedSigByte sig r.cnt = some b) (hc : r.cnt - 1 ≠ 0) :
      PushCase sig b r ({ r with cnt := r.cnt - 1 }, .ack .none)
  | sigLast (hp : r.phase = .sig) (hb : expectedSigByte sig r.cnt = some b) (hc : r.cnt - 1 = 0) :
      PushCase sig b r ({ r with phase := .len, cnt := 4 }, .ack .none)
  | sigWrong (hp : r.phase = .sig) (hb : expectedSigByte sig r.cnt ≠ some b) :
      PushCase sig b r ({ r with err := .signatureError, phase := .err }, .ack (.err .signatureError))
  | lenMore (hp : r.phase = .len) (hc : r.cnt - 1 ≠ 0) :
      PushCase sig b r ({ r with len := shiftIn r.len b, cnt := r.cnt - 1 }, .ack .none)
  | lenLast (hp : r.phase = .len) (hc : r.cnt - 1 = 0) :
      PushCase sig b r
        ({ r with len := shiftIn r.len b, phase := .type, cnt := 4, crc := Config.crcInit }, .ack .none)
  | typeMore (hp : r.phase = .type) (hc : r.cnt - 1 ≠ 0) : PushCase sig b r (r.afterTypeByte b, .ack .none)
  | typeIllegal (e : ErrorKind) (hp : r.phase = .type) (hc : r.cnt - 1 = 0)
      (ht : tagCheck (r.tagAfter b) = .error e) :
      PushCase sig b r
        ({ r.afterTypeByte b with facets := (r.tagAfter b).facets, err := e.toErr, phase := .err }, .ack (.err e))
  | typeTag (hp : r.phase = .type) (hc : r.cnt - 1 = 0) (ht : tagCheck (r.tagAfter b) = .ok ())
      (hm : r.mode = .tag) :
      PushCase sig b r ({ r.afterTypeByte b with facets := (r.tagAfter b).facets, phase := .done }, .ack .done)
  | typeEmpty (hp : r.phase = .type) (hc : r.cnt - 1 = 0) (ht : tagCheck (r.tagAfter b) = .ok ())
      (hm : r.mode ≠ .tag) (hl : r.len = 0) :
      PushCase sig b r
        ({ r.afterTypeByte b with facets := (r.tagAfter b).facets, phase := .csum, cnt := 4 }, .ack .none)
  | typePayload (hp : r.phase = .type) (hc : r.cnt - 1 = 0) (ht : tagCheck (r.tagAfter b) = .ok ())
      (hm : r.mode ≠ .tag) (hl : r.len ≠ 0) :
      PushCase sig b r
        ({ r.afterTypeByte b with facets := (r.tagAfter b).facets, phase := .payload, cnt := r.len }, .ack .none)
  | payloadMore (hp : r.phase = .payload) (hc : r.cnt - 1 ≠ 0) :
      PushCase sig b r ({ r with crc := crcStep r.crc b, cnt := r.cnt - 1 }, .ack (.payload b))
  | payloadLast (hp : r.phase = .payload) (hc : r.cnt - 1 = 0) :
      PushCase sig b r ({ r with crc := crcStep r.crc b, phase := .csum, cnt := 4 }, .ack (.payload b))
  | csumMore (hp : r.phase = .csum) (hc : r.cnt - 1 ≠ 0) :
      PushCase sig b r ({ r with csum := shiftIn r.csum b, cnt := r.cnt - 1 }, .ack .none)
  | csumChunk (hp : r.phase = .csum) (hc : r.cnt - 1 = 0) (heq : shiftIn r.csum b = crcOut r.crc)
      (hm : r.mode = .chunk) :
      PushCase sig b r ({ r with csum := shiftIn r.csum b, cnt := r.cnt - 1, phase := .done }, .ack .chunk)
  | csumCont (hp : r.phase = .csum) (hc : r.cnt - 1 = 0) (heq : shiftIn r.csum b = crcOut r.crc)
      (hm : r.mode ≠ .chunk) :
      PushCase sig b r ({ r with csum := shiftIn r.csum b, phase := .len, cnt := 4 }, .ack .chunk)
  | csumWrong (hp : r.phase = .csum) (hc : r.cnt - 1 = 0) (hne : shiftIn r.csum b ≠ crcOut r.crc) :
      PushCase sig b r
        ({ r with csum := shiftIn r.csum b, cnt := r.cnt - 1, err := .checksumError, phase := .err },
          .ack (.err .checksumError))

/-- `PUSH` in phase `TYPE`. -/
theorem push_case_type (sig : Config.Signature) (b : Byte) (r : Regs) (hp : r.phase = .type) :
    PushCase sig b r (push sig b r) := by
  by_cases hc : r.cnt - 1 = 0
  · rcases ht : tagCheck (r.tagAfter b) with e | _
    · convert PushCase.typeIllegal (sig := sig) e hp hc ht using 1
      simp only [push, hp, pushType, hc, if_true, typeComplete]
      rw [show tagCheck (TypeTag.ofWord (shiftIn r.type b)) = .error e from ht]
      simp only [raise, Regs.afterTypeByte, Regs.tagAfter, hc]
    · by_cases hm : r.mode = .tag
      · convert PushCase.typeTag (sig := sig) hp hc ht hm using 1
        simp only [push, hp, pushType, hc, if_true, typeComplete, hm]
        rw [show tagCheck (TypeTag.ofWord (shiftIn r.type b)) = .ok () from ht]
        simp only [tagDone, accept, Regs.afterTypeByte, Regs.tagAfter, hm, hc]
      · by_cases hl : r.len = 0
        · convert PushCase.typeEmpty (sig := sig) hp hc ht hm hl using 1
          simp only [push, hp, pushType, hc, if_true, typeComplete, hm, if_false]
          rw [show tagCheck (TypeTag.ofWord (shiftIn r.type b)) = .ok () from ht]
          simp only [openPayload, hl, if_true, accept, Regs.afterTypeByte, Regs.tagAfter]
        · convert PushCase.typePayload (sig := sig) hp hc ht hm hl using 1
          simp only [push, hp, pushType, hc, if_true, typeComplete, hm, if_false]
          rw [show tagCheck (TypeTag.ofWord (shiftIn r.type b)) = .ok () from ht]
          simp only [openPayload, hl, if_false, accept, Regs.afterTypeByte, Regs.tagAfter]
  · convert PushCase.typeMore (sig := sig) (b := b) hp hc using 1
    simp only [push, hp, pushType, hc, if_false, accept, Regs.afterTypeByte]

/-- `PUSH` in phase `CSUM`. -/
theorem push_case_csum (sig : Config.Signature) (b : Byte) (r : Regs) (hp : r.phase = .csum) :
    PushCase sig b r (push sig b r) := by
  simp only [push, hp, pushCsum, csumComplete]
  split_ifs with hc heq hm
  · exact .csumChunk hp hc heq hm
  · exact .csumCont hp hc heq hm
  · exact .csumWrong hp hc heq
  · convert PushCase.csumMore (sig := sig) (b := b) hp hc using 1
    simp only [accept, hp]

/-- Every `PUSH` is one of the cases. -/
theorem push_case (sig : Config.Signature) (b : Byte) (r : Regs) : PushCase sig b r (push sig b r) := by
  rcases hp : r.phase
  case type => exact push_case_type sig b r hp
  case csum => exact push_case_csum sig b r hp
  all_goals simp only [push, hp]
  case sig =>
    rw [pushSig]
    split_ifs with hb hc
    · exact .sigLast hp hb hc
    · exact .sigMore hp hb hc
    · exact .sigWrong hp hb
  case len =>
    rw [pushLen]
    split_ifs with hc
    · exact .lenLast hp hc
    · exact .lenMore hp hc
  case payload =>
    rw [pushPayload]
    split_ifs with hc
    · exact .payloadLast hp hc
    · exact .payloadMore hp hc
  case stream => exact .stream hp
  all_goals exact .resting (by rw [hp]; rfl)

/-- What `END` does, branch by branch. -/
inductive EndCase (r : Regs) : Regs × Response → Prop where
  | resting (hp : r.phase.isActive = false) : EndCase r (r, .refused)
  | complete (h : r.phase = .stream ∨ (r.phase = .len ∧ r.mode = .cont ∧ r.cnt = 4)) :
      EndCase r ({ r with phase := .done }, .ack .done)
  | inSignature (hp : r.phase = .sig) :
      EndCase r ({ r with err := .signatureError, phase := .err }, .ack (.err .signatureError))
  | inField (h : (r.phase = .len ∧ ¬(r.mode = .cont ∧ r.cnt = 4)) ∨ r.phase = .type ∨ r.phase = .payload ∨
        r.phase = .csum) :
      EndCase r ({ r with err := .framingError, phase := .err }, .ack (.err .framingError))

/-- Every `END` is one of the cases. -/
theorem end_case (r : Regs) : EndCase r (endBuffer r) := by
  rcases hp : r.phase
  all_goals simp only [endBuffer, hp]
  case sig => exact .inSignature hp
  case len =>
    rw [endLen]
    split_ifs with h
    · exact .complete (.inr ⟨hp, h⟩)
    · exact .inField (.inl ⟨hp, h⟩)
  case type => exact .inField (.inr (.inl hp))
  case payload => exact .inField (.inr (.inr (.inl hp)))
  case csum => exact .inField (.inr (.inr (.inr hp)))
  case stream => exact .complete (.inl hp)
  all_goals exact .resting (by rw [hp]; rfl)

/-- What a command does: a `START` begins an operation, `PUSH` and `END` are their cases, a reserved word is refused. -/
theorem command_case (sig : Config.Signature) (i : Instr) (r : Regs) :
    (∃ m p c, command sig i r = beginOperation m p c ∧
        ((i = .startCrc ∧ m = .crc ∧ p = .stream ∧ c = 0) ∨ (i = .startTag ∧ m = .tag ∧ p = .type ∧ c = 4) ∨
          (i = .startChunk ∧ m = .chunk ∧ p = .len ∧ c = 4) ∨ (i = .startCont ∧ m = .cont ∧ p = .sig ∧ c = 8))) ∨
    (∃ b, i = .push b ∧ PushCase sig b r (command sig i r)) ∨
    (i = .endBuffer ∧ EndCase r (command sig i r)) ∨
    (((∃ x m, i = .reservedStart x m) ∨ (∃ x, i = .reservedEnd x) ∨ (∃ x, i = .reservedOp3 x)) ∧
      command sig i r = (r, .refused)) := by
  cases i with
  | startCrc => exact .inl ⟨_, _, _, rfl, .inl ⟨rfl, rfl, rfl, rfl⟩⟩
  | startTag => exact .inl ⟨_, _, _, rfl, .inr (.inl ⟨rfl, rfl, rfl, rfl⟩)⟩
  | startChunk => exact .inl ⟨_, _, _, rfl, .inr (.inr (.inl ⟨rfl, rfl, rfl, rfl⟩))⟩
  | startCont => exact .inl ⟨_, _, _, rfl, .inr (.inr (.inr ⟨rfl, rfl, rfl, rfl⟩))⟩
  | push b => exact .inr (.inl ⟨b, rfl, push_case sig b r⟩)
  | endBuffer => exact .inr (.inr (.inl ⟨rfl, end_case r⟩))
  | reservedStart x m => exact .inr (.inr (.inr ⟨.inl ⟨x, m, rfl⟩, rfl⟩))
  | reservedEnd x => exact .inr (.inr (.inr ⟨.inr (.inl ⟨x, rfl⟩), rfl⟩))
  | reservedOp3 x => exact .inr (.inr (.inr ⟨.inr (.inr ⟨x, rfl⟩), rfl⟩))

end Sys2Proof.Machine
end

