-- ==== Sys2Proof/Laws/Step.lean ====
section
/-! SUPPORT. What a step can do, said once. -/

namespace Sys2Proof.Machine

@[simp] theorem stepOn_reset (c : Option CmdWord) (s : State) :
    stepOn { reset := true, command := c } s = .next s.applyReset := rfl
@[simp] theorem stepOn_idle (s : State) : stepOn { reset := false, command := none } s = .next s.stayIdle := rfl
@[simp] theorem stepOn_command (w : CmdWord) (s : State) :
    stepOn { reset := false, command := some w } s = exec (decode w) s := rfl

theorem step_nil {s : State} (h : s.input = []) : step s = .next s.stayIdle := by simp [step, h]
theorem step_cons {s : State} {inp : Input} {rest : List Input} (h : s.input = inp :: rest) :
    step s = stepOn inp { s with input := rest } := by simp [step, h]

/-- A step that answers `t` did one of three things: the host drove no command; it asserted reset; it issued a command
word, and `t` is what the step function of R82 gives for it. -/
theorem step_cases {s t : State} (h : step s = .next t) :
    (t = { s with input := s.input.tail, rsp := none } ∧
        (s.input = [] ∨ ∃ rest, s.input = { reset := false, command := none } :: rest)) ∨
    (t = State.applyReset { s with input := s.input.tail } ∧
        ∃ c rest, s.input = { reset := true, command := c } :: rest) ∨
    (∃ w rest, s.input = { reset := false, command := some w } :: rest ∧
        t = { s with
              regs := (command s.sig (decode w) s.regs).1
              rsp := some (command s.sig (decode w) s.regs).2
              input := rest }) := by
  rcases hin : s.input with _ | ⟨⟨rst, c⟩, rest⟩
  · rw [step_nil hin] at h
    refine .inl ⟨(Host.Outcome.next.inj h).symm.trans ?_, .inl rfl⟩
    cases s; simp_all [State.stayIdle]
  · rw [step_cons hin] at h
    rcases rst with _ | _
    · rcases c with _ | w
      · exact .inl ⟨(Host.Outcome.next.inj h).symm, .inr ⟨rest, rfl⟩⟩
      · exact .inr (.inr ⟨w, rest, rfl, exec_next h⟩)
    · exact .inr (.inl ⟨(Host.Outcome.next.inj h).symm, c, rest, rfl⟩)

/-- Every step answers a next state. -/
theorem step_total (s : State) : ∃ t, step s = .next t := by
  rcases hin : s.input with _ | ⟨⟨rst, c⟩, rest⟩
  · exact ⟨_, step_nil hin⟩
  · rw [step_cons hin]
    rcases rst with _ | _
    · rcases c with _ | w
      · exact ⟨_, rfl⟩
      · exact ⟨_, exec_eq_answer _ _⟩
    · exact ⟨_, rfl⟩

/-- The step after `withFetchWord` runs the decoded table word, the rest of the input untouched. -/
theorem step_withFetchWord (s : State) (nbits w : Nat) (i : Instr) (h : decodeTableWord nbits w = some i) :
    step (s.withFetchWord nbits w) = exec i s := by
  by_cases hw : w % 2 ^ nbits < 1024
  · obtain rfl : decode (BitVec.ofNat 10 (w % 2 ^ nbits)) = i := by
      simpa [decodeTableWord, decodeNat, hw] using h
    simp [step, State.withFetchWord, hw]
  · simp [decodeTableWord, decodeNat, hw] at h

end Sys2Proof.Machine
end

