-- ==== Sys2Proof/Laws/Observe.lean ====
section
/-! SUPPORT. The trace and the observation, one step at a time, and the consumer, one lemma per operation. -/

namespace Sys2Proof.Machine

theorem trace_succ_of_step {s t : State} (n : Nat) (h : step s = .next t) : trace (n + 1) s = t :: trace n t := by
  simp [trace, h]

/-- No step stops, so a trace of `n` steps has `n` states. -/
theorem trace_length (n : Nat) : ∀ s, (trace n s).length = n := by
  induction n with
  | zero => intro s; rfl
  | succ n ih =>
    intro s
    obtain ⟨t, ht⟩ := step_total s
    rw [trace_succ_of_step n ht, List.length_cons, ih]

theorem run_length (m : Mode) (buf : List Byte) (s : State) : (run m buf s).length = buf.length + 2 := by
  simp [run, runScriptFrom, trace_length, runScript, pushs]

theorem observe_succ_of_step {s t : State} (n : Nat) (h : step s = .next t) :
    observe (n + 1) s = (s.driven, t) :: observe n t := by
  simp [observe, h]

/-- The host sees the states of the trace. -/
theorem observe_states (n : Nat) : ∀ s, (observe n s).map Prod.snd = trace n s := by
  induction n with
  | zero => intro s; rfl
  | succ n ih =>
    intro s
    obtain ⟨t, ht⟩ := step_total s
    rw [observe_succ_of_step n ht, trace_succ_of_step n ht, List.map_cons, ih]

variable (c : Consumer) (s : State) (cmd : Option CmdWord) (w : CmdWord)

@[simp] theorem Consumer.discard_payload : c.discard.payload = [] := rfl
@[simp] theorem Consumer.discard_chunks : c.discard.chunks = [] := rfl
@[simp] theorem Consumer.discard_results : c.discard.results = c.results := rfl

@[simp] theorem Consumer.commit_payload (r : Except ErrorKind (List Chunk)) : (c.commit r).payload = [] := rfl
@[simp] theorem Consumer.commit_chunks (r : Except ErrorKind (List Chunk)) : (c.commit r).chunks = [] := rfl
@[simp] theorem Consumer.commit_results (r : Except ErrorKind (List Chunk)) :
    (c.commit r).results = c.results ++ [r] := rfl

@[simp] theorem Consumer.addChunk_payload (ch : Chunk) : (c.addChunk ch).payload = [] := rfl
@[simp] theorem Consumer.addChunk_chunks (ch : Chunk) : (c.addChunk ch).chunks = c.chunks ++ [ch] := rfl
@[simp] theorem Consumer.addChunk_results (ch : Chunk) : (c.addChunk ch).results = c.results := rfl

@[simp] theorem Consumer.see_reset : c.see ({ reset := true, command := cmd }, s) = c.discard := rfl
@[simp] theorem Consumer.see_idle : c.see ({ reset := false, command := none }, s) = c := rfl

theorem Consumer.see_start (h : isStart (decode w) = true) :
    c.see ({ reset := false, command := some w }, s) = c.discard := by
  simp [Consumer.see, h]

theorem Consumer.see_command (h : isStart (decode w) = false) :
    c.see ({ reset := false, command := some w }, s) = c.seeResponse s := by
  simp [Consumer.see, h]

/-- The committed results only grow: what is provisional decides what is added, the earlier results do not. -/
theorem Consumer.see_results (o : Input × State) :
    c.see o = { (Consumer.see { c with results := [] } o) with
      results := c.results ++ (Consumer.see { c with results := [] } o).results } := by
  obtain ⟨⟨reset, command⟩, t⟩ := o
  unfold Consumer.see Consumer.seeResponse Consumer.commit Consumer.discard Consumer.addChunk
  cases reset <;> rcases command with _ | w <;> dsimp only <;> (repeat' split) <;> simp

end Sys2Proof.Machine
end

