-- ==== Sys2Proof/Laws/PerInstr.lean ====
section
/-! SUPPORT. Facts about every command as syntax, one lemma per constructor. -/

namespace Sys2Proof.Laws.TableRow

/-- The word of a well-formed command first matches the command's own row of the opcode table (spec 30_encoding R66). -/
def Statement (i : Instr) : Prop :=
  i.wellFormed = true → (OpcodeRow.firstMatch (encode i)).map OpcodeRow.mnemonic = some i.mnemonic

theorem startCrc : Statement .startCrc := fun _ => by decide
theorem startTag : Statement .startTag := fun _ => by decide
theorem startChunk : Statement .startChunk := fun _ => by decide
theorem startCont : Statement .startCont := fun _ => by decide
theorem push (b : Byte) : Statement (.push b) := fun _ => by
  revert b; decide
theorem endBuffer : Statement .endBuffer := fun _ => by decide
theorem reservedStart (x : BitVec 6) (mode : BitVec 2) : Statement (.reservedStart x mode) := by
  unfold Statement; revert x mode; decide
theorem reservedEnd (x : Byte) : Statement (.reservedEnd x) := by
  unfold Statement; revert x; decide
theorem reservedOp3 (x : Byte) : Statement (.reservedOp3 x) := by
  unfold Statement; revert x; decide

end Sys2Proof.Laws.TableRow
end

