-- ==== Sys2Proof/Laws/Software.lean ====
section
/-! SUPPORT. The laws of the text functions of the informative software: a character takes at least one byte, and the
decoding loop without its bound. -/

namespace Sys2Proof.Machine.Software

theorem utf8Tails_le {n v w : Nat} {bs rest : List Byte} (h : utf8Tails n v bs = some (w, rest)) :
    rest.length ≤ bs.length := by
  induction n generalizing v bs with
  | zero => cases h; exact le_rfl
  | succ n ih =>
    cases bs with
    | nil => cases h
    | cons b r =>
      rw [utf8Tails] at h
      split at h
      · exact (ih h).trans (Nat.le_succ _)
      · cases h

theorem utf8Char_rest {lo : Nat} {p : Nat × List Byte} {c : Char} {rest : List Byte}
    (h : utf8Char lo p = some (c, rest)) : rest = p.2 := by
  obtain ⟨_, _, h⟩ := Option.map_eq_some_iff.mp h
  exact (congrArg Prod.snd h).symm

/-- A character read as UTF-8 takes at least one byte. -/
theorem utf8Next_consumes {bs rest : List Byte} {c : Char} (h : utf8Next bs = some (c, rest)) :
    rest.length < bs.length := by
  have tails {n v lo : Nat} {r : List Byte} (h : (utf8Tails n v r).bind (utf8Char lo) = some (c, rest)) :
      rest.length ≤ r.length := by
    obtain ⟨⟨w, r'⟩, hw, h⟩ := Option.bind_eq_some_iff.mp h
    exact utf8Char_rest h ▸ utf8Tails_le hw
  cases bs with
  | nil => cases h
  | cons a r =>
    refine Nat.lt_succ_of_le ?_
    rw [utf8Next] at h
    split_ifs at h
    · exact (utf8Char_rest h).symm ▸ le_rfl
    all_goals exact tails h

/-- A bound at least the sequence's size is as good as any other. -/
theorem utf8Decode_bound (n : Nat) : ∀ (m : Nat) (bs : List Byte), bs.length ≤ n → bs.length ≤ m →
    utf8Decode n bs = utf8Decode m bs := by
  induction n with
  | zero =>
    intro m bs hn _
    obtain rfl : bs = [] := by simpa using hn
    cases m <;> rfl
  | succ n ih =>
    intro m bs hn hm
    cases bs with
    | nil => cases m <;> rfl
    | cons b r =>
      cases m with
      | zero => simp at hm
      | succ m =>
        rw [utf8Decode, utf8Decode]
        rcases hc : utf8Next (b :: r) with _ | ⟨c, rest⟩
        · rfl
        · have := utf8Next_consumes hc
          simp only [List.length_cons] at this hn hm
          exact congrArg (Option.map (c :: ·)) (ih m rest (by omega) (by omega))

/-- The decoding loop: one character, then what follows it, until nothing is left. -/
theorem utf8Decode_eq (b : Byte) (r : List Byte) :
    utf8Decode (b :: r).length (b :: r) =
      (utf8Next (b :: r)).bind fun p => (utf8Decode p.2.length p.2).map (p.1 :: ·) := by
  rw [List.length_cons, utf8Decode]
  rcases hc : utf8Next (b :: r) with _ | ⟨c, rest⟩
  · rfl
  · have := utf8Next_consumes hc
    simp only [List.length_cons] at this
    exact congrArg (Option.map (c :: ·)) (utf8Decode_bound _ _ rest (by omega) le_rfl)

end Sys2Proof.Machine.Software
end

