-- ==== Sys2Proof/Laws/Wire.lean ====
section
/-! SUPPORT. The laws of the wire functions: big-endian fields, consumption, and the record loop without its bound. -/

namespace Sys2Proof.Machine

theorem unbe32_be32 (v : Word) :
    unbe32 (v.extractLsb' 24 8) (v.extractLsb' 16 8) (v.extractLsb' 8 8) (v.extractLsb' 0 8) = v := by
  apply BitVec.eq_of_getLsbD_eq
  intro i hi
  simp only [unbe32, BitVec.getLsbD_append, BitVec.getLsbD_extractLsb']
  interval_cases i <;> simp

@[simp] theorem be32_length (v : Word) : (be32 v).length = 4 := rfl
@[simp] theorem TypeTag.bytes_length (t : TypeTag) : t.bytes.length = 4 := rfl

/-- A record occupies `12 + |payload|` bytes (30_encoding R46). -/
theorem encodeChunk_length (c : Chunk) : (encodeChunk c).length = 12 + c.payload.length := by
  simp [encodeChunk]; omega

/-- A decoded record took at least twelve bytes from the front of the buffer. -/
theorem decodeChunk_consumes {buf rest : List Byte} {c : Chunk} (h : decodeChunk buf = .ok (c, rest)) :
    rest.length + 12 ≤ buf.length := by
  unfold decodeChunk at h
  split at h
  · rename_i l0 l1 l2 l3 t0 t1 t2 t3 r
    unfold decodeBody at h
    split at h
    · cases h
    · split at h
      · cases h
      · unfold decodeChecksum at h
        split at h
        · rename_i c0 c1 c2 c3 rest' heq
          split at h
          · cases h
            have := congrArg List.length heq
            simp at this ⊢
            omega
          · cases h
        · cases h
  · cases h

/-- A bound at least the buffer's size is as good as any other. -/
theorem decodeRecords_bound (n : Nat) : ∀ (m : Nat) (r : List Byte), r.length ≤ n → r.length ≤ m →
    decodeRecords n r = decodeRecords m r := by
  induction n with
  | zero =>
    intro m r hn _
    obtain rfl : r = [] := by simpa using hn
    cases m <;> rfl
  | succ n ih =>
    intro m r hn hm
    cases r with
    | nil => cases m <;> rfl
    | cons b r =>
      cases m with
      | zero => simp at hm
      | succ m =>
        simp only [decodeRecords]
        rcases hd : decodeChunk (b :: r) with e | ⟨c, rest⟩
        · rfl
        · have := decodeChunk_consumes hd
          simp only [List.length_cons] at this hn hm
          simp only [ih m rest (by omega) (by omega)]

/-- The loop of 44_container R156: decode one record, go on with what follows it, until nothing is left. -/
theorem decodeRecords_eq (r : List Byte) :
    decodeRecords r.length r =
      if r = [] then .ok []
      else match decodeChunk r with
        | .error e => .error e
        | .ok (c, rest) =>
          match decodeRecords rest.length rest with
          | .error e => .error e
          | .ok cs => .ok (c :: cs) := by
  cases r with
  | nil => rfl
  | cons b r =>
    simp only [List.length_cons, decodeRecords, reduceCtorEq, if_false]
    rcases hd : decodeChunk (b :: r) with e | ⟨c, rest⟩
    · rfl
    · have := decodeChunk_consumes hd
      simp only [List.length_cons] at this
      simp only [decodeRecords_bound r.length rest.length rest (by omega) le_rfl] <;>
        cases decodeRecords rest.length rest <;> rfl

end Sys2Proof.Machine
end

