-- ==== Sys2Proof/Tests/Slice0.lean ====
section
/-! SUPPORT. Tests and witnesses. Expected values are those of spec 95_test_vectors (named T, S, P there) or are written out
from the encodings and examples of the rules; a witness meets the hypotheses of the obligation it is named after. -/

namespace Sys2Proof.Tests

open Sys2Proof.Machine

/-! ### Small states -/

/-- Registers with nothing in them, phase `IDLE`. -/
def blank : Regs :=
  { mode := .crc, phase := .idle, err := .none, crc := 0xFFFFFFFF, len := 0, type := 0, csum := 0, cnt := 0,
    facets := 0 }

/-- A state with the test signature and these registers. -/
def stateOf (r : Regs) : State := { regs := r, sig := testSignature, input := [], rsp := none, resets := 0 }

/-- A state with these registers and this input. -/
def stateWith (r : Regs) (input : List Input) : State := { stateOf r with input := input }

/-- The next state of an outcome. -/
def nextOf : Host.Outcome State Fault Refusal → Option State
  | .next s => some s
  | .fault _ => none
  | .refused _ => none

/-- Registers and response word after one command, the registers packed as the columns of the traces of 95. -/
def after (i : Instr) (r : Regs) : Option (Regs × RspWord) :=
  match nextOf (exec i (stateOf r)) with
  | some t => t.rsp.map fun p => (t.regs, p.word)
  | none => none

/-- `START.CONT`, phase `SIG`, `cnt` bytes missing. -/
def inSig (cnt : Word) : Regs := { blank with mode := .cont, phase := .sig, cnt := cnt }

/-- Phase `LEN`. -/
def inLen (mode : Mode) (len cnt : Word) : Regs := { blank with mode := mode, phase := .len, len := len, cnt := cnt }

/-- Phase `TYPE`. -/
def inType (mode : Mode) (len crc type cnt : Word) : Regs :=
  { blank with mode := mode, phase := .type, len := len, crc := crc, type := type, cnt := cnt }

/-- Phase `PAYLOAD` of the chunk `"RuSt"`, `41` (program P5, row 17). -/
def inPayload : Regs :=
  { blank with mode := .cont, phase := .payload, crc := 0x2B7BF6C3, len := 1, type := 0x52755374, cnt := 1, facets := 0x1D }

/-- Phase `CSUM` of the empty `"IEND"` chunk with `csum` received (program P4, rows 9 to 12). -/
def inCsum (mode : Mode) (csum cnt : Word) : Regs :=
  { blank with mode := mode, phase := .csum, crc := 0x51BD9F7D, type := 0x49454E44, csum := csum, cnt := cnt,
               facets := 0x17 }

/-- Phase `STREAM`. -/
def inStream : Regs := { blank with phase := .stream }

/-- Phase `ERR` after a reserved-bit error (program P6, row 15). -/
def inErr : Regs :=
  { blank with mode := .tag, phase := .err, err := .reservedBitError, crc := 0xBEFFD261, type := 0x52757374, facets := 9 }

/-- The chunk of T22: type `"RuSt"`, payload `41`. -/
def chunkA : Chunk :=
  { length := 1, type := ⟨0x52, 0x75, 0x53, 0x74⟩, payload := [0x41], checksum := 0xFC626605 }

/-- Its thirteen bytes (program P5, with the right checksum). -/
def bytesA : List Byte := [0x00, 0x00, 0x00, 0x01, 0x52, 0x75, 0x53, 0x74, 0x41, 0xFC, 0x62, 0x66, 0x05]

/-! ### Well-formed terms -/

theorem test_wellFormed_refuses_reservedStart_zero : (Instr.reservedStart 0 2).wellFormed = false := by decide
theorem test_wellFormed_refuses_reservedEnd_zero : (Instr.reservedEnd 0).wellFormed = false := by decide
theorem test_wellFormed_accepts_reserved :
    (Instr.reservedStart 1 0).wellFormed = true ∧ (Instr.reservedEnd 1).wellFormed = true ∧
    (Instr.reservedOp3 0).wellFormed = true := by decide

/-! ### Decoding, bit by bit: `op` at 9:8, `data` at 7:0 (30_encoding R55) -/

theorem test_decode_startCrc : decode 0b00_000000_00#10 = .startCrc := by decide
theorem test_decode_startTag : decode 0b00_000000_01#10 = .startTag := by decide
theorem test_decode_startChunk : decode 0b00_000000_10#10 = .startChunk := by decide
theorem test_decode_startCont : decode 0b00_000000_11#10 = .startCont := by decide
theorem test_decode_push : decode 0b01_01110100#10 = .push 0b01110100 := by decide
theorem test_decode_push_ends : decode 0x100 = .push 0x00 ∧ decode 0x1FF = .push 0xFF := by decide
theorem test_decode_endBuffer : decode 0b10_00000000#10 = .endBuffer := by decide
theorem test_decode_reservedStart : decode 0b00_000001_10#10 = .reservedStart 0b000001 0b10 := by decide
theorem test_decode_reservedEnd : decode 0b10_10000001#10 = .reservedEnd 0b10000001 := by decide
theorem test_decode_reservedOp3 : decode 0b11_00000000#10 = .reservedOp3 0 := by decide
theorem test_decode_rejects_wide : decodeNat 1024 = .error .widerThanPort := by decide
theorem test_decodeTableWord : decodeTableWord 16 0x174 = some (.push 0x74) ∧ decodeTableWord 16 0x400 = none := by decide

/-- 30_encoding R66: the first match of the table is the mnemonic of the decoded command, at the ends of every row. -/
theorem test_table_first_match :
    ([0x000#10, 0x001, 0x002, 0x003, 0x004, 0x0FF, 0x100, 0x1FF, 0x200, 0x201, 0x2FF, 0x300, 0x3FF].all fun w =>
      (OpcodeRow.firstMatch w).map OpcodeRow.mnemonic == some (decode w).mnemonic) = true := by decide +kernel

/-! ### Commands, one step each -/

/-- P6, row 17, from phase `ERR`. -/
theorem test_startCrc : after .startCrc inErr = some ({ blank with phase := .stream }, 0x000) := by decide
/-- P6, row 11, which abandons a container. -/
theorem test_startTag : after .startTag (inSig 4) = some ({ blank with mode := .tag, phase := .type, cnt := 4 }, 0x000) := by
  decide
/-- P4, row 1. -/
theorem test_startChunk : after .startChunk inErr = some (inLen .chunk 0 4, 0x000) := by decide
/-- P6, row 3. -/
theorem test_startCont : after .startCont blank = some (inSig 8, 0x000) := by decide

/-- 41_crc R98's example. -/
theorem test_push_stream : after (.push 0x74) inStream = some ({ inStream with crc := 0x7A95A557 }, 0x000) := by
  decide +kernel
/-- P3, row 2 and the row of the eighth signature byte. -/
theorem test_push_sig : after (.push 0x89) (inSig 8) = some (inSig 7, 0x000) ∧
    after (.push 0x0A) (inSig 1) = some (inLen .cont 0 4, 0x000) := by decide
/-- P7, row 5. -/
theorem test_push_sig_wrong :
    after (.push 0x46) (inSig 5) = some ({ inSig 5 with phase := .err, err := .signatureError }, 0x401) := by decide
/-- P8, row 5: the CRC is fresh whatever it was. -/
theorem test_push_len : after (.push 0x01) { inLen .chunk 0 1 with crc := 0x12345678 } =
    some ({ inLen .chunk 1 4 with phase := .type }, 0x000) := by decide
/-- P6, row 13. -/
theorem test_push_type :
    after (.push 0x75) (inType .tag 0 0xA89820AA 0x52 3) = some (inType .tag 0 0x16C45765 0x5275 2, 0x000) := by
  decide +kernel
/-- P5, row 17, and P6, row 15. -/
theorem test_push_type_fourth :
    after (.push 0x74) (inType .cont 1 0xCFAC51CE 0x527553 1) = some (inPayload, 0x000) ∧
    after (.push 0x74) (inType .tag 0 0xF4C27106 0x527573 1) = some (inErr, 0x403) := by decide +kernel
/-- P5, row 18. -/
theorem test_push_payload : after (.push 0x41) inPayload =
    some ({ inPayload with phase := .csum, crc := 0x039D99FA, cnt := 4 }, 0x141) := by decide +kernel
/-- P4, row 13, and 43_chunk_framer R137's example with `83`. -/
theorem test_push_csum :
    after (.push 0x82) (inCsum .chunk 0xAE4260 1) = some ({ inCsum .chunk 0xAE426082 0 with phase := .done }, 0x200) ∧
    after (.push 0x83) (inCsum .chunk 0xAE4260 1) =
      some ({ inCsum .chunk 0xAE426083 0 with phase := .err, err := .checksumError }, 0x405) := by decide
/-- P6, rows 1 and 2. -/
theorem test_idle_refuses : after (.push 0x41) blank = some (blank, 0x800) ∧ after .endBuffer blank = some (blank, 0x800) := by
  decide
/-- P6, row 18, and P3, row 27. -/
theorem test_end_completes : after .endBuffer inStream = some ({ inStream with phase := .done }, 0x300) ∧
    after .endBuffer (inLen .cont 5 4) = some ({ inLen .cont 5 4 with phase := .done }, 0x300) := by decide
/-- P8, row 8, and the empty buffer in `CHUNK` mode. -/
theorem test_end_framing :
    after .endBuffer (inType .chunk 1 0x16C45765 0x5275 2) =
      some ({ inType .chunk 1 0x16C45765 0x5275 2 with phase := .err, err := .framingError }, 0x402) ∧
    after .endBuffer (inLen .chunk 0 4) = some ({ inLen .chunk 0 4 with phase := .err, err := .framingError }, 0x402) := by
  decide
/-- P6, rows 7 to 9. -/
theorem test_reserved : after (.reservedOp3 0xFF) (inSig 5) = some (inSig 5, 0x800) ∧
    after (.reservedStart 0x3C 0) (inSig 5) = some (inSig 5, 0x800) ∧
    after (.reservedEnd 1) (inSig 5) = some (inSig 5, 0x800) := by decide

/-- A step fetches the word placed on the port, as the first command after reset too. -/
theorem test_withFetchWord :
    ((nextOf (step (State.reset.withFetchWord 16 0x002))).map fun t => (t.regs, t.rsp)) =
      some (inLen .chunk 0 4, some (.ack .none)) := by decide
/-- 70_reset R220: reset in the middle of an operation overrides the command beside it. -/
theorem test_reset_overrides :
    ((nextOf (step (stateWith (inSig 5) [{ reset := true, command := some 0x003 }]))).map
      fun t => (t.regs.phase, t.regs.err, t.regs.mode, t.rsp)) = some (.idle, .none, .crc, none) := by decide

/-! ### The pure functions -/

/-- T1, T2, T2b, T3, T4. -/
theorem test_crc32 : crc32 [] = 0 ∧ crc32 [0x00] = 0xD202EF8D ∧ crc32 [0xFF] = 0xFF000000 ∧
    crc32 [0x31, 0x32, 0x33, 0x34, 0x35, 0x36, 0x37, 0x38, 0x39] = 0xCBF43926 ∧
    crc32Msb [0x49, 0x45, 0x4E, 0x44] = 0xAE426082 := by decide +kernel
/-- 41_crc R92. -/
theorem test_polyReflected : Config.poly.reverse = Config.polyReflected := by decide +kernel
/-- T8, T10, T16, T17, T18. -/
theorem test_tagCheck :
    tagCheck ⟨0x52, 0x75, 0x40, 0x74⟩ = .error .reservedBitError ∧
    tagCheck ⟨0x31, 0x75, 0x53, 0x74⟩ = .error .invalidByteError ∧
    tagCheck ⟨0x41, 0x41, 0x5B, 0x41⟩ = .error .reservedBitError ∧
    tagCheck ⟨0x60, 0x41, 0x41, 0x7B⟩ = .error .invalidByteError ∧
    tagCheck ⟨0x5A, 0x7A, 0x41, 0x61⟩ = .ok () := by decide
/-- T22. -/
theorem test_chunk : createChunk ⟨0x52, 0x75, 0x53, 0x74⟩ [0x41] = some chunkA ∧ encodeChunk chunkA = bytesA ∧
    decodeChunk (bytesA ++ [0x07]) = .ok (chunkA, [0x07]) := by decide +kernel
/-- 45_software_context R176: the text constructor. -/
theorem test_fromText : Software.fromText ['R', 'u', 's', 't'] = .ok ⟨0x52, 0x75, 0x73, 0x74⟩ ∧
    Software.fromText ['R', 'u', '1', 't'] = .error (.codec .invalidByteError) := by decide

/-- 45_software_context R178 and 42_typetag R106: ASCII, UTF-8 in two and in four bytes, and bytes that are no UTF-8 (a lone
`FF`, an overlong form). Bytes from the Unicode standard. -/
theorem test_toText : Software.toText ⟨0x52, 0x75, 0x53, 0x74⟩ = .ok ['R', 'u', 'S', 't'] ∧
    Software.toText ⟨0xC3, 0xA9, 0xC3, 0xA9⟩ = .ok ['\u00e9', '\u00e9'] ∧
    Software.toText ⟨0xF0, 0x9F, 0x98, 0x80⟩ = .ok [Char.ofNat 0x1F600] ∧
    Software.toText ⟨0x52, 0x75, 0x53, 0xFF⟩ = .error .encodingError ∧
    Software.toText ⟨0xC1, 0x81, 0x41, 0x41⟩ = .error .encodingError := by decide +kernel

/-- 70_reset R225: a record cut off by `START.CRC` and one cut off by reset are in no result. -/
theorem test_abandoned_is_discarded :
    let cut : List Instr :=
      .startCont :: (pushSignature testSignature ++ pushs bytesA ++ pushs (bytesA.take 9) ++ [.startCrc])
    committed (observeFrom (cut.map issue ++ [{ reset := true, command := none }] ++
      (runScript .tag [0x52, 0x75, 0x53, 0x74]).map issue) (stateOf blank)) = [.ok []] := by decide +kernel

/-! ### Witnesses for the hypotheses of the obligations -/

theorem witness_DecodeAndEncodeAgree :
    (Instr.reservedStart 0x3F 3).wellFormed = true ∧ (Instr.reservedEnd 1).wellFormed = true ∧
    (Instr.push 0xFF).wellFormed = true := by decide

/-- The ends of the three ranges, and the words next to them. -/
theorem witness_ReservedWordsAreRefusedInEveryPhase :
    ([0x004#10, 0x0FF, 0x201, 0x2FF, 0x300, 0x3FF].map fun w => isReserved (decode w)) =
      [true, true, true, true, true, true] ∧
    ([0x003#10, 0x100, 0x1FF, 0x200].map fun w => isReserved (decode w)) = [false, false, false, false] ∧
    (stateWith (inSig 5) [{ reset := false, command := some 0x3FF }]).input =
      { reset := false, command := some 0x3FF } :: [] := by decide

theorem witness_StepExecutesTheIssuedCommand :
    (stateWith blank [{ reset := false, command := some 0x003 }]).input =
      { reset := false, command := some 0x003 } :: [] ∧
    Instr.startCont.wellFormed = true ∧
    (stateWith blank [issue .startCont]).input = issue .startCont :: [] := by decide

theorem witness_StepWithoutCommandChangesNoRegister :
    (stateOf blank).input = [] ∧
    (stateWith blank [{ reset := false, command := none }]).input = { reset := false, command := none } :: [] := by
  decide

theorem witness_ResetOverridesCommandsAndSetsControlRegisters :
    (stateWith (inSig 5) [{ reset := true, command := some 0x003 }]).input =
      { reset := true, command := some 0x003 } :: [] ∧
    (∃ t, exec .endBuffer (stateOf (inSig 5)) = .next t) ∧ (stateOf (inSig 5)).regs.phase ≠ .idle :=
  ⟨by decide, ⟨_, rfl⟩, by decide⟩

/-- Two idle machines that differ in `CRC`, `CNT` and the number of resets: refused first, then a `START`. -/
theorem witness_UnspecifiedRegistersAreNeverRead :
    let s := stateWith blank [issue .endBuffer, issue .startTag]
    let s' := { stateWith { blank with crc := 5, cnt := 7 } [issue .endBuffer, issue .startTag] with resets := 3 }
    s ≠ s' ∧ s.regs.phase = .idle ∧ s'.regs.phase = .idle ∧ s.regs.mode = s'.regs.mode ∧ s.regs.err = s'.regs.err ∧
      s.sig = s'.sig ∧ s.input = s'.input ∧ s.resets ≠ s'.resets ∧
      ((trace 2 s)[1]?.map fun t => t.regs.phase) = some .type ∧
      ((trace 2 s')[0]?.map fun t => t.regs.phase) = some .idle := by decide

theorem witness_RunDoesNotDependOnTheStateBefore :
    (stateOf blank).sig = (stateOf inErr).sig ∧ stateOf blank ≠ stateOf inErr := by decide

theorem witness_RestingPhasesRefusePushAndEnd :
    (stateOf blank).regs.phase = .idle ∧ (stateOf inErr).regs.phase = .err ∧
    (stateOf { blank with phase := .done }).regs.phase = .done := by decide

theorem witness_PushInStreamAbsorbsTheByte : (stateOf inStream).regs.phase = .stream := by decide

/-- Index 0, index 6 and index 7 with the matching byte, and a byte that does not match. -/
theorem witness_PushInSigComparesOneByte :
    (stateOf (inSig 8)).regs.phase = .sig ∧ (inSig 8).cnt.toNat = 8 - 0 ∧ 0x89#8 = testSignature[0] ∧
    (inSig 2).cnt.toNat = 8 - 6 ∧ 0x1A#8 = testSignature[6] ∧
    (inSig 1).cnt.toNat = 8 - 7 ∧ 0x0A#8 = testSignature[7] ∧ 0x46#8 ≠ testSignature[3] ∧
    (stateOf (inSig 8)).sig = testSignature := by decide

theorem witness_PushInSigOutsideTheInvariant :
    (stateOf (inSig 0)).regs.phase = .sig ∧ (inSig 0).cnt.toNat = 0 ∧ 8 < (inSig 9).cnt.toNat := by decide

theorem witness_PushInLenAssemblesTheLength :
    (stateOf (inLen .chunk 0 2)).regs.phase = .len ∧ (inLen .chunk 0 2).cnt ≠ 0 ∧
    (inLen .chunk 0 2).cnt - 1 ≠ 0 ∧
    (inLen .chunk 0 1).cnt - 1 = 0 ∧ (inLen .cont 7 4).cnt = 4 := by decide

/-- Before the fourth byte; and at it a reserved bit, an invalid byte, a legal tag in `TAG` mode, with `LEN` 0 and with
`LEN` 1. -/
theorem witness_PushInTypeChecksTheTag :
    (stateOf (inType .tag 0 0 0x52 2)).regs.phase = .type ∧ (inType .tag 0 0 0x52 2).cnt ≠ 0 ∧
    (inType .tag 0 0 0x52 2).cnt - 1 ≠ 0 ∧
    (inType .tag 0 0 0x527553 1).cnt - 1 = 0 ∧
    tagCheck (TypeTag.ofWord (shiftIn 0x527573 0x74)) = .error .reservedBitError ∧
    tagCheck (TypeTag.ofWord (shiftIn 0x527553 0x31)) = .error .invalidByteError ∧
    tagCheck (TypeTag.ofWord (shiftIn 0x527553 0x74)) = .ok () ∧
    (inType .tag 0 0 0x527553 1).mode = .tag ∧
    (inType .chunk 0 0 0x527553 1).mode ≠ .tag ∧ (inType .chunk 0 0 0x527553 1).len = 0 ∧
    (inType .cont 1 0 0x527553 1).mode ≠ .tag ∧ (inType .cont 1 0 0x527553 1).len ≠ 0 := by decide

theorem witness_PushInPayloadPassesTheByteThrough :
    (stateOf inPayload).regs.phase = .payload ∧ inPayload.cnt - 1 = 0 ∧
    (stateOf { inPayload with cnt := 2, len := 2 }).regs.cnt ≠ 0 ∧
    (stateOf { inPayload with cnt := 2, len := 2 }).regs.cnt - 1 ≠ 0 := by decide

theorem witness_PushWithCountZeroWraps :
    (stateOf (inLen .chunk 0 0)).regs.cnt = 0 ∧ (inLen .chunk 0 0).phase = .len ∧
    (inType .tag 0 0 0 0).cnt = 0 ∧ (inType .tag 0 0 0 0).phase = .type ∧
    (stateOf { inPayload with cnt := 0 }).regs.cnt = 0 ∧ inPayload.phase = .payload ∧
    (inCsum .chunk 0 0).cnt = 0 ∧ (inCsum .chunk 0 0).phase = .csum := by decide

theorem witness_PushInCsumComparesTheChecksum :
    (stateOf (inCsum .chunk 0xAE4260 1)).regs.phase = .csum ∧ (inCsum .chunk 0xAE 3).cnt ≠ 0 ∧
    (inCsum .chunk 0xAE 3).cnt - 1 ≠ 0 ∧
    (inCsum .chunk 0xAE4260 1).cnt - 1 = 0 ∧
    (inCsum .chunk 0xAE4260 1).csum.extractLsb' 0 24 ++ 0x82#8 = (inCsum .chunk 0xAE4260 1).crc ^^^ 0xFFFFFFFF ∧
    (inCsum .chunk 0xAE4260 1).csum.extractLsb' 0 24 ++ 0x83#8 ≠ (inCsum .chunk 0xAE4260 1).crc ^^^ 0xFFFFFFFF ∧
    (inCsum .chunk 0xAE4260 1).mode = .chunk ∧ (inCsum .cont 0xAE4260 1).mode ≠ .chunk := by decide

theorem witness_EndCompletesAtABoundary :
    (stateOf inStream).regs.phase = .stream ∧
    ((stateOf (inLen .cont 5 4)).regs.phase = .len ∧ (inLen .cont 5 4).mode = .cont ∧ (inLen .cont 5 4).cnt = 4) := by
  decide

theorem witness_EndInsideAFieldIsAFramingError :
    ((inLen .cont 5 3).phase = .len ∧ ¬((inLen .cont 5 3).mode = .cont ∧ (inLen .cont 5 3).cnt = 4)) ∧
    ((inLen .chunk 0 4).phase = .len ∧ ¬((inLen .chunk 0 4).mode = .cont ∧ (inLen .chunk 0 4).cnt = 4)) ∧
    (inType .tag 0 0 0 4).phase = .type ∧ inPayload.phase = .payload ∧ (inCsum .cont 0 4).phase = .csum := by decide

theorem witness_EndInsideTheSignatureIsASignatureError : (stateOf (inSig 8)).regs.phase = .sig := by decide

/-- The payload state of P5 meets the invariants of R28. -/
theorem inPayload_inv : inPayload.Inv := by constructor <;> decide

/-- Another state with the same registers and signature. -/
theorem witness_StepFunctionIsTotalAndDeterministic :
    (stateOf inPayload).regs.Inv ∧ (stateWith inPayload [issue .endBuffer]).regs = (stateOf inPayload).regs ∧
    (stateWith inPayload [issue .endBuffer]).sig = (stateOf inPayload).sig := ⟨inPayload_inv, by decide, by decide⟩

theorem witness_ScriptIsAFoldOfTheStepFunction :
    ∀ i ∈ runScript .cont bytesA ++ [.reservedOp3 0, .reservedEnd 1], i.wellFormed = true := by decide

theorem witness_EveryStepKeepsTheInvariants :
    (stateWith inPayload [issue (.push 0x41)]).regs.Inv ∧
    (∃ t, step (stateWith inPayload [issue (.push 0x41)]) = .next t) ∧
    inPayload.HoldsAcceptedTag ∧ inPayload.phase = .payload :=
  ⟨inPayload_inv, ⟨_, rfl⟩, fun _ => by decide, by decide⟩

/-- Refused in each of the two ways, and accepted. -/
theorem witness_AcceptanceTable :
    (after (.reservedOp3 0) inStream).map Prod.snd = some 0x800 ∧ (after .endBuffer inErr).map Prod.snd = some 0x800 ∧
    (after .endBuffer inStream).map Prod.snd = some 0x300 := by decide

/-- The step of P5, row 18: the row of the table for the last payload byte. -/
theorem witness_PhaseChangesAreTheTransitionTable :
    inPayload.Inv ∧ (∃ t, exec (.push 0x41) (stateOf inPayload) = .next t) ∧
    Transition testSignature inPayload (.push 0x41) .csum (.ack (.payload 0x41)) :=
  ⟨inPayload_inv, ⟨_, rfl⟩, .payloadLast _ (by decide) (by decide)⟩

theorem witness_RegistersChangeOnlyWhereTheirRuleSays :
    (after (.push 0x74) (inType .cont 1 0xCFAC51CE 0x527553 1)).map (fun a => a.1.facets) = some 0x1D ∧
    (inType .cont 1 0xCFAC51CE 0x527553 1).facets ≠ 0x1D ∧
    (after .startTag (inSig 5)).map (fun a => a.1.mode) = some .tag ∧ (inSig 5).mode ≠ .tag := by decide +kernel

/-- A response of each kind: payload, chunk, done. -/
theorem witness_EventsOfEachCommand :
    (after (.push 0x41) inPayload).map Prod.snd = some 0x141 ∧
    (after (.push 0x82) (inCsum .cont 0xAE4260 1)).map Prod.snd = some 0x200 ∧
    (after (.push 0x74) (inType .tag 0 0 0x527553 1)).map Prod.snd = some 0x300 := by decide +kernel

/-- A tag ends in `DONE` at its fourth byte, and two commands follow. -/
theorem witness_NothingIsAcceptedAfterDoneOrErr :
    let is := pushs [0x52, 0x75, 0x53, 0x74] ++ [.endBuffer, .reservedOp3 1]
    (∀ i ∈ is, i.wellFormed = true ∧ isStart i = false) ∧
    ((runScriptFrom is (stateOf (inType .tag 0 0xFFFFFFFF 0 4)))[3]?.map fun t => isFinal t.rsp) = some true ∧
    ((runScriptFrom is (stateOf (inType .tag 0 0xFFFFFFFF 0 4)))[5]?).isSome = true := by decide +kernel

theorem witness_OnlyStartAndResetLeaveTheErrorPhase :
    (stateWith inErr [issue .startCrc]).regs.phase = .err ∧
    (∃ t, step (stateWith inErr [issue .startCrc]) = .next t ∧ t.regs ≠ inErr) :=
  ⟨by decide, _, rfl, by decide⟩

theorem witness_CrcSeesEveryOneBitDifference : 12 < bytesA.length ∧ 7 < 8 := by decide

theorem witness_ByteClassesAreRanges : 0x80 ≤ (0x80#8).toNat ∧ isAlpha 0x41 = true ∧ isAlpha 0x7A = true := by decide

theorem witness_TagCheckAndFacets :
    isUpper (0x31#8) = false ∧
    (isUpper (0x53#8) = true ∧ ∃ b ∈ (⟨0x31, 0x75, 0x53, 0x74⟩ : TypeTag).bytes, isAlpha b = false) ∧
    (∀ b ∈ (⟨0x52, 0x75, 0x53, 0x74⟩ : TypeTag).bytes, isAlpha b = true) := by decide

theorem witness_TagRunAgreesWithTagCheck :
    tagCheck ⟨0x52, 0x75, 0x53, 0x74⟩ = .ok () ∧ tagCheck ⟨0x52, 0x75, 0x73, 0x74⟩ = .error .reservedBitError ∧
    tagCheck ⟨0x52, 0x75, 0x53, 0xF4⟩ = .error .invalidByteError := by decide

theorem witness_ChunkRoundTrip :
    tagCheck ⟨0x52, 0x75, 0x53, 0x74⟩ = .ok () ∧ createChunk ⟨0x52, 0x75, 0x53, 0x74⟩ [0x41] = some chunkA ∧
    decodeChunk (bytesA ++ [0x07]) = .ok (chunkA, [0x07]) ∧
    tagCheck ⟨0x52, 0x75, 0x73, 0x74⟩ = .error .reservedBitError ∧
    (createChunk ⟨0x52, 0x75, 0x73, 0x74⟩ []).isSome = true := by decide +kernel

theorem chunkA_consistent : chunkA.consistent ∧ chunkA.legalType := by
  unfold Chunk.consistent Chunk.legalType; decide +kernel

/-- The first and the last byte of each range, a flip that leaves the tag legal and one that does not. -/
theorem witness_OneFlippedBitIsDetected :
    (chunkA.consistent ∧ chunkA.legalType) ∧ (encodeChunk chunkA).length = 13 ∧
    (⟨0x72, 0x75, 0x53, 0x74⟩ : TypeTag).bytes = flipBit chunkA.type.bytes (4 - 4) 5 ∧
    tagCheck ⟨0x72, 0x75, 0x53, 0x74⟩ = .ok () ∧
    (⟨0x52, 0x75, 0x53, 0xF4⟩ : TypeTag).bytes = flipBit chunkA.type.bytes (7 - 4) 7 ∧
    tagCheck ⟨0x52, 0x75, 0x53, 0xF4⟩ = .error .invalidByteError :=
  ⟨chunkA_consistent, by decide, by decide, by decide, by decide, by decide⟩

/-- A buffer of each outcome. -/
theorem witness_ChunkRunComputesDecodeChunk :
    decodeChunk bytesA = .ok (chunkA, []) ∧ decodeChunk (bytesA.take 12) = .error .framingError ∧
    decodeChunk (flipBit bytesA 12 0) = .error .checksumError ∧
    decodeChunk (flipBit bytesA 6 5) = .error .reservedBitError ∧
    decodeChunk (flipBit bytesA 7 7) = .error .invalidByteError := by decide +kernel

theorem witness_ContainerRoundTrip :
    (∀ c ∈ [chunkA, chunkA], c.consistent ∧ c.legalType) ∧
    decodeContainer testSignature (testSignature.toList ++ bytesA) = .ok [chunkA] := by
  refine ⟨fun c hc => ?_, by decide +kernel⟩
  obtain rfl : c = chunkA := by simpa using hc
  exact chunkA_consistent

/-- `"1u1t"` has both defects and `"1uSt"` the second only; a record without its last type byte; payload and checksum cut
short by one byte; a full record with a wrong checksum. -/
theorem witness_TheEarliestDefectDecides :
    (isUpper (0x31#8) = false ∧ isAlpha (0x31#8) = false) ∧
    (isUpper (0x53#8) = true ∧ ∃ b ∈ (⟨0x31, 0x75, 0x53, 0x74⟩ : TypeTag).bytes, isAlpha b = false) ∧
    (bytesA.take 7).length < 8 ∧
    (tagCheck chunkA.type = .ok () ∧ (bytesA.drop 8).length = (unbe32 0 0 0 1).toNat + 4 ∧
      ((bytesA.drop 8).take 4).length < (unbe32 0 0 0 1).toNat + 4) ∧
    (chunkA.payload.length = (unbe32 0 0 0 1).toNat ∧
      unbe32 0xFC 0x62 0x66 0x04 ≠ crc32 (chunkA.type.bytes ++ chunkA.payload)) ∧
    ¬ testSignature.toList <+: [0x89, 0x50] ∧
    (∀ c ∈ [chunkA], c.consistent ∧ c.legalType) ∧ flipBit bytesA 12 0 ≠ [] ∧
    decodeChunk (flipBit bytesA 12 0) = .error .checksumError := by
  refine ⟨by decide, by decide, by decide, by decide, by decide +kernel, by decide, fun c hc => ?_, by decide,
    by decide +kernel⟩
  obtain rfl : c = chunkA := by simpa using hc
  exact chunkA_consistent

theorem witness_ContainerErrorsArriveAtTheDefect :
    0x46#8 ≠ testSignature[3] ∧ 0x46#8 ≠ testSignature[7] ∧ (∀ c ∈ [chunkA], c.consistent ∧ c.legalType) ∧
    [0x00#8] ≠ [] ∧
    ((run .chunk [0x00] (stateOf blank))[2]?.map State.rsp) = some (some (.ack (.err .framingError))) := by
  refine ⟨by decide, by decide, fun c hc => ?_, by decide, by decide +kernel⟩
  obtain rfl : c = chunkA := by simpa using hc
  exact chunkA_consistent

/-- A consumer with a payload byte and a chunk in hand: a `DONE` changes the results; a `START` word, and a `PUSH` whose
response is each of the events. -/
theorem witness_ProvisionalEventsAreHeldBackAndDiscarded :
    let c : Consumer := { payload := [0x41], chunks := [chunkA], results := [] }
    let t (m : Mode) (e : Event) : State := { stateOf (inLen m 0 4) with rsp := some (.ack e) }
    (c.see (issue .endBuffer, t .cont .done)).results ≠ c.results ∧
    isStart (decode 0x003) = true ∧ isStart (decode 0x141) = false ∧
    (t .cont (.payload 0x41)).rsp = some (.ack (.payload 0x41)) ∧
    (t .cont .chunk).rsp = some (.ack .chunk) ∧ (t .cont .chunk).regs.mode ≠ .chunk ∧
    (t .chunk .chunk).regs.mode = .chunk ∧ (t .cont .done).rsp = some (.ack .done) ∧
    (t .cont (.err .checksumError)).rsp = some (.ack (.err .checksumError)) := by decide

theorem witness_AbandonedOperationsLeaveNothingBehind :
    (stateOf inPayload).sig = (stateOf blank).sig ∧ stateOf inPayload ≠ stateOf blank ∧
    (issue .startCont).command = some 0x003 ∧ isStart (decode 0x003) = true ∧
    ({ reset := true, command := none } : Input).reset = true := by decide

theorem witness_EndToEndScenario :
    (createChunk ⟨0x74, 0x65, 0x58, 0x74⟩ [0x68, 0x65, 0x6C, 0x6C, 0x6F]).isSome = true := by decide +kernel

theorem witness_RemoveTakesTheFirstOfItsType :
    (∀ d ∈ [chunkA], Software.hasTypeName ['t', 'e', 'X', 't'] d = false) ∧
    Software.hasTypeName ['t', 'e', 'X', 't'] { chunkA with type := ⟨0x74, 0x65, 0x58, 0x74⟩ } = true := by decide +kernel

end Sys2Proof.Tests
end

/-! PROOFS. What a command and a step do, where the model's own laws do not say it: the facts the proofs below share. -/

namespace Sys2Proof.Machine

variable {sig : Config.Signature} {i : Instr} {b : Byte} {r : Regs}

/-! ### Commands and their words -/

/-- The `START` commands are those of the four modes. -/
theorem isStart_iff : isStart i = true ↔ ∃ m : Mode, i = m.start := by
  constructor
  · intro h
    cases i with
    | startCrc => exact ⟨.crc, rfl⟩
    | startTag => exact ⟨.tag, rfl⟩
    | startChunk => exact ⟨.chunk, rfl⟩
    | startCont => exact ⟨.cont, rfl⟩
    | push | endBuffer | reservedStart | reservedEnd | reservedOp3 => cases h
  · rintro ⟨m, rfl⟩
    cases m <;> rfl

/-- In a resting phase everything but `START` is refused (40_commands R79, R80). -/
theorem command_resting (hp : r.phase.isActive = false) (hi : isStart i = false) :
    command sig i r = (r, .refused) := by
  have hrest : r.phase = .idle ∨ r.phase = .done ∨ r.phase = .err := by
    revert hp; cases r.phase <;> simp [Phase.isActive]
  cases i with
  | startCrc | startTag | startChunk | startCont => cases hi
  | push => rcases hrest with h | h | h <;> simp [command, push, h, refuse]
  | endBuffer => rcases hrest with h | h | h <;> simp [command, endBuffer, h, refuse]
  | reservedStart | reservedEnd | reservedOp3 => rfl

/-- Decoding the word of a well-formed command gives the command back (30_encoding Part B). -/
theorem decode_encode (h : i.wellFormed = true) : decode (encode i) = i := by
  cases i with
  | startCrc | startTag | startChunk | startCont | endBuffer => decide
  | push b => revert b; decide
  | reservedStart x m => revert x m; decide
  | reservedEnd x => revert x; decide
  | reservedOp3 x => revert x; decide

/-! ### The step -/

/-- A step acts on what the host drives in it and consumes that entry of the input. -/
theorem step_eq_stepOn (s : State) : step s = stepOn s.driven { s with input := s.input.tail } := by
  obtain ⟨regs, sig, input, rsp, resets⟩ := s
  cases input <;> rfl

/-- A step on a command word is the step function of 40_commands R82. -/
theorem stepOn_command_eq (w : CmdWord) (s : State) :
    stepOn { reset := false, command := some w } s =
      .next { s with regs := (command s.sig (decode w) s.regs).1, rsp := some (command s.sig (decode w) s.regs).2 } :=
  exec_eq_answer _ _

/-! ### `PUSH` by its condition -/

/-- A byte that is not the expected one ends the signature (44_container R161). -/
theorem push_sigWrong (hp : r.phase = .sig) (hb : expectedSigByte sig r.cnt ≠ some b) :
    push sig b r = ({ r with err := .signatureError, phase := .err }, .ack (.err .signatureError)) := by
  simp [push, hp, pushSig, hb, raise, ErrorKind.toErr]

theorem push_lenMore (hp : r.phase = .len) (hc : r.cnt - 1 ≠ 0) :
    push sig b r = ({ r with len := shiftIn r.len b, cnt := r.cnt - 1 }, .ack .none) := by
  simp only [push, hp, pushLen, hc, if_false, accept]

theorem push_typeMore (hp : r.phase = .type) (hc : r.cnt - 1 ≠ 0) :
    push sig b r = (r.afterTypeByte b, .ack .none) := by
  simp only [push, hp, pushType, hc, if_false, accept, Regs.afterTypeByte]

theorem push_payloadMore (hp : r.phase = .payload) (hc : r.cnt - 1 ≠ 0) :
    push sig b r = ({ r with crc := crcStep r.crc b, cnt := r.cnt - 1 }, .ack (.payload b)) := by
  simp only [push, hp, pushPayload, hc, if_false, accept]

theorem push_csumMore (hp : r.phase = .csum) (hc : r.cnt - 1 ≠ 0) :
    push sig b r = ({ r with csum := shiftIn r.csum b, cnt := r.cnt - 1 }, .ack .none) := by
  simp only [push, hp, pushCsum, hc, if_false, accept]

/-- A `PUSH` answers with its operation on the registers. -/
theorem exec_push (b : Byte) (s : State) :
    exec (.push b) s = .next { s with regs := (push s.sig b s.regs).1, rsp := some (push s.sig b s.regs).2 } :=
  exec_eq_answer _ _

end Sys2Proof.Machine

/-! PROOFS. The invariants of 10_state R28, phase by phase, and that every step keeps them. -/

namespace Sys2Proof.Machine

variable {sig : Config.Signature} {b : Byte} {r : Regs} {a : Regs × Response}

/-! ### What the invariants say in each phase -/

/-- A counter with at least one and at most `n` bytes to go. -/
def CountWithin (n : Nat) (cnt : Word) : Prop := 1 ≤ cnt.toNat ∧ cnt.toNat ≤ n

theorem countWithin_four : CountWithin 4 4 := by unfold CountWithin; decide

/-- A counter that does not run out stays in its range. -/
theorem CountWithin.pred {n : Nat} {cnt : Word} (h : CountWithin n cnt) (hc : cnt - 1 ≠ 0) :
    CountWithin n (cnt - 1) := by
  obtain ⟨hone, hn⟩ := h
  have hcnt : cnt.toNat ≠ 1 := mt (cnt_pred_eq_zero_iff cnt).2 hc
  rw [CountWithin, cnt_pred_toNat _ hone]
  omega

/-- A register that is not zero counts within its own value. -/
theorem countWithin_self {len : Word} (h : len ≠ 0) : CountWithin len.toNat len :=
  ⟨by bv_omega, le_rfl⟩

/-- The mode of an operation that reads chunk records (R28 (f)). -/
def Mode.ReadsRecords (m : Mode) : Prop := m = .chunk ∨ m = .cont

/-- What the invariants (a) to (h) of R28 ask of the other registers in each phase: `Regs.Inv.phaseInv` and
`Regs.PhaseInv.inv` say that it is the same as `Regs.Inv`. -/
def Regs.PhaseInv (r : Regs) : Prop :=
  match r.phase with
  | .idle => r.err = .none
  | .sig => r.err = .none ∧ r.mode = .cont ∧ CountWithin 8 r.cnt
  | .len => r.err = .none ∧ r.mode.ReadsRecords ∧ CountWithin 4 r.cnt
  | .type => r.err = .none ∧ (r.mode = .tag ∨ r.mode.ReadsRecords) ∧ CountWithin 4 r.cnt
  | .payload => r.err = .none ∧ r.mode.ReadsRecords ∧ CountWithin r.len.toNat r.cnt ∧ r.facets.getLsbD 4 = true
  | .csum => r.err = .none ∧ r.mode.ReadsRecords ∧ CountWithin 4 r.cnt ∧ r.facets.getLsbD 4 = true
  | .stream => r.err = .none ∧ r.mode = .crc
  | .done => r.err = .none ∧ (r.mode = .tag ∨ r.mode = .chunk → r.facets.getLsbD 4 = true)
  | .err => r.err ≠ .none

theorem Err.code_ne_six_and_ne_seven (e : Err) : e.code ≠ 6 ∧ e.code ≠ 7 := by cases e <;> decide

theorem Phase.code_le_eight (p : Phase) : p.code.toNat ≤ 8 := by cases p <;> decide

theorem Regs.Inv.phaseInv (h : r.Inv) : r.PhaseInv := by
  obtain ⟨herr, hsig, hfield, hpayload, hstream, hrecord, htype, htag, -⟩ := h
  unfold Regs.PhaseInv
  cases hp : r.phase <;> simp_all [CountWithin, Mode.ReadsRecords]

theorem Regs.PhaseInv.inv (h : r.PhaseInv) : r.Inv := by
  unfold Regs.PhaseInv CountWithin Mode.ReadsRecords at h
  obtain ⟨hsix, hseven⟩ := Err.code_ne_six_and_ne_seven r.err
  refine ⟨?err, ?sig, ?field, ?payload, ?stream, ?record, ?type, ?tag, hsix, hseven, Phase.code_le_eight _⟩
  all_goals cases hp : r.phase <;> simp_all

/-! ### Every command keeps the invariants -/

/-- `FACETS[4]` is the facet `valid` (42_typetag R109). -/
theorem TypeTag.facets_getLsbD_four (t : TypeTag) : t.facets.getLsbD 4 = t.valid := by
  simp only [TypeTag.facets, BitVec.getLsbD_append]
  simp

theorem TypeTag.valid_of_tagCheck {t : TypeTag} (h : tagCheck t = .ok ()) : t.valid = true := by
  unfold tagCheck at h
  split_ifs at h
  simp_all [TypeTag.valid]

/-- A legal tag's facets carry the bit `valid`. -/
theorem TypeTag.facets_getLsbD_four_of_tagCheck {t : TypeTag} (h : tagCheck t = .ok ()) :
    t.facets.getLsbD 4 = true :=
  t.facets_getLsbD_four.trans (TypeTag.valid_of_tagCheck h)

theorem PushCase.phaseInv (h : PushCase sig b r a) (hi : r.PhaseInv) : a.1.PhaseInv := by
  cases h with
  | resting _ => exact hi
  | stream hp => simpa only [Regs.PhaseInv, hp] using hi
  | sigMore hp _ hc | lenMore hp hc | typeMore hp hc =>
    simp only [Regs.PhaseInv, Regs.afterTypeByte, hp] at hi ⊢
    obtain ⟨he, hm, hn⟩ := hi
    exact ⟨he, hm, hn.pred hc⟩
  | sigLast hp | lenLast hp =>
    simp only [Regs.PhaseInv, hp] at hi ⊢
    obtain ⟨he, hm, -⟩ := hi
    exact ⟨he, .inr hm, countWithin_four⟩
  | sigWrong | csumWrong => exact fun he => nomatch he
  | typeIllegal e => exact e.toErr_ne_none
  | typeTag hp _ ht =>
    simp only [Regs.PhaseInv, hp] at hi ⊢
    exact ⟨hi.1, fun _ => TypeTag.facets_getLsbD_four_of_tagCheck ht⟩
  | typeEmpty hp _ ht hm =>
    simp only [Regs.PhaseInv, hp] at hi ⊢
    obtain ⟨he, hmode, -⟩ := hi
    exact ⟨he, hmode.resolve_left hm, countWithin_four, TypeTag.facets_getLsbD_four_of_tagCheck ht⟩
  | typePayload hp _ ht hm hl =>
    simp only [Regs.PhaseInv, hp] at hi ⊢
    obtain ⟨he, hmode, -⟩ := hi
    exact ⟨he, hmode.resolve_left hm, countWithin_self hl, TypeTag.facets_getLsbD_four_of_tagCheck ht⟩
  | payloadMore hp hc | csumMore hp hc =>
    simp only [Regs.PhaseInv, hp] at hi ⊢
    obtain ⟨he, hm, hn, hf⟩ := hi
    exact ⟨he, hm, hn.pred hc, hf⟩
  | payloadLast hp =>
    simp only [Regs.PhaseInv, hp] at hi ⊢
    obtain ⟨he, hm, -, hf⟩ := hi
    exact ⟨he, hm, countWithin_four, hf⟩
  | csumChunk hp =>
    simp only [Regs.PhaseInv, hp] at hi ⊢
    obtain ⟨he, -, -, hf⟩ := hi
    exact ⟨he, fun _ => hf⟩
  | csumCont hp =>
    simp only [Regs.PhaseInv, hp] at hi ⊢
    obtain ⟨he, hm, -⟩ := hi
    exact ⟨he, hm, countWithin_four⟩

theorem EndCase.phaseInv (h : EndCase r a) (hi : r.PhaseInv) : a.1.PhaseInv := by
  cases h with
  | resting _ => exact hi
  | complete h =>
    rcases h with hp | ⟨hp, hm, -⟩
    · simp only [Regs.PhaseInv, hp] at hi
      obtain ⟨he, hm⟩ := hi
      exact ⟨he, by simp [hm]⟩
    · simp only [Regs.PhaseInv, hp] at hi
      exact ⟨hi.1, by simp [hm]⟩
  | inSignature | inField => simp [Regs.PhaseInv]

theorem command_phaseInv (i : Instr) (hi : r.PhaseInv) : (command sig i r).1.PhaseInv := by
  rcases command_case sig i r with ⟨m, p, c, heq, hstart⟩ | ⟨b, -, h⟩ | ⟨-, h⟩ | ⟨-, heq⟩
  · -- Each `START` opens a phase with the counter and the mode that the phase asks for.
    rw [heq, beginOperation_regs]
    rcases hstart with ⟨-, rfl, rfl, rfl⟩ | ⟨-, rfl, rfl, rfl⟩ | ⟨-, rfl, rfl, rfl⟩ | ⟨-, rfl, rfl, rfl⟩ <;>
      simp [Regs.PhaseInv, CountWithin, Mode.ReadsRecords]
  · exact h.phaseInv hi
  · exact h.phaseInv hi
  · rwa [heq]

/-- Every command keeps the invariants (a) to (h) of R28. -/
theorem command_inv (i : Instr) (hi : r.Inv) : (command sig i r).1.Inv := (command_phaseInv i hi.phaseInv).inv

/-! ### The accepted tag -/

theorem PushCase.holdsAcceptedTag (h : PushCase sig b r a) (ha : r.HoldsAcceptedTag) :
    a.1.HoldsAcceptedTag := by
  cases h with
  | resting => exact ha
  | stream hp | sigMore hp | lenMore hp | typeMore hp => simp [Regs.HoldsAcceptedTag, Regs.afterTypeByte, hp]
  | sigLast | sigWrong | lenLast | typeIllegal | csumCont | csumWrong => simp [Regs.HoldsAcceptedTag]
  | typeTag _ _ ht | typeEmpty _ _ ht | typePayload _ _ ht => exact fun _ => ⟨rfl, ht⟩
  | payloadMore hp | payloadLast hp => exact fun _ => ha (.inl hp)
  | csumMore hp | csumChunk hp => exact fun _ => ha (.inr (.inl hp))

/-- `END` reaches `DONE` from phases in which no tag has been accepted, in a mode for which (g) says nothing. -/
theorem EndCase.holdsAcceptedTag (h : EndCase r a) (hi : r.Inv) (ha : r.HoldsAcceptedTag) :
    a.1.HoldsAcceptedTag := by
  cases h with
  | resting => exact ha
  | complete h =>
    have hmode : r.mode = .crc ∨ r.mode = .cont := by
      rcases h with hp | ⟨-, hm, -⟩
      · exact .inl (hi.streamMode hp)
      · exact .inr hm
    rcases hmode with hm | hm <;> simp [Regs.HoldsAcceptedTag, hm]
  | inSignature | inField => simp [Regs.HoldsAcceptedTag]

theorem command_holdsAcceptedTag (i : Instr) (hi : r.Inv) (ha : r.HoldsAcceptedTag) :
    (command sig i r).1.HoldsAcceptedTag := by
  rcases command_case sig i r with ⟨m, p, c, heq, hstart⟩ | ⟨b, -, h⟩ | ⟨-, h⟩ | ⟨-, heq⟩
  · rw [heq, beginOperation_regs]
    rcases hstart with ⟨-, -, rfl, -⟩ | ⟨-, -, rfl, -⟩ | ⟨-, -, rfl, -⟩ | ⟨-, -, rfl, -⟩ <;>
      simp [Regs.HoldsAcceptedTag]
  · exact h.holdsAcceptedTag ha
  · exact h.holdsAcceptedTag hi ha
  · rwa [heq]

/-! ### Every reset and every step -/

theorem Regs.afterReset_inv (n : Nat) : (Regs.afterReset n).Inv := Regs.PhaseInv.inv rfl

theorem Regs.afterReset_holdsAcceptedTag (n : Nat) : (Regs.afterReset n).HoldsAcceptedTag := by
  simp [Regs.HoldsAcceptedTag]

/-- Settles O27: a step with no command keeps the registers, a reset draws them anew in `IDLE`, and every command keeps the
invariants (`command_inv`) and with them the accepted tag (`command_holdsAcceptedTag`). -/
theorem everyStepKeepsTheInvariants : Obligations.EveryStepKeepsTheInvariants := by
  refine ⟨fun n => ⟨Regs.afterReset_inv n, Regs.afterReset_holdsAcceptedTag n⟩, fun s t hi hstep => ?_⟩
  rcases step_cases hstep with ⟨rfl, -⟩ | ⟨rfl, -⟩ | ⟨w, rest, -, rfl⟩
  · exact ⟨hi, id⟩
  · exact ⟨Regs.afterReset_inv _, fun _ => Regs.afterReset_holdsAcceptedTag _⟩
  · exact ⟨command_inv _ hi, command_holdsAcceptedTag _ hi⟩

/-- Settles O28: `State.reset` is the first draw. -/
theorem invariantsHoldAfterReset : Obligations.InvariantsHoldAfterReset :=
  ⟨Regs.afterReset_inv 0, Regs.afterReset_holdsAcceptedTag 0⟩

end Sys2Proof.Machine

/-! PROOFS. Scripts and lockstep: what a step reads, and how a script's trace follows from the commands alone. -/

namespace Sys2Proof.Machine

variable {sig : Config.Signature} {i : Instr} {r r' : Regs} {s s' t t' : State}

/-! ### Scripts -/

/-- The registers and responses along a script of well-formed commands are the left fold of the step function
(20_memory R39). -/
theorem trace_script (is : List Instr) (s : State) (hin : s.input = is.map issue)
    (hwf : ∀ i ∈ is, i.wellFormed = true) :
    (trace is.length s).map (fun t => (t.regs, t.rsp)) =
      (commands s.sig is s.regs).map (fun a => (a.1, some a.2)) := by
  induction is generalizing s with
  | nil => rfl
  | cons i is ih =>
    obtain ⟨hi, his⟩ := List.forall_mem_cons.1 hwf
    have hstep : step s = .next { s with
        regs := (command s.sig i s.regs).1, rsp := some (command s.sig i s.regs).2, input := is.map issue } := by
      rw [step_cons hin, issue, stepOn_command_eq, decode_encode hi]
    rw [List.length_cons, trace_succ_of_step _ hstep, List.map_cons, ih _ rfl his]
    rfl

theorem runScriptFrom_eq_commands (is : List Instr) (s : State) (hwf : ∀ i ∈ is, i.wellFormed = true) :
    (runScriptFrom is s).map (fun t => (t.regs, t.rsp)) =
      (commands s.sig is s.regs).map (fun a => (a.1, some a.2)) :=
  trace_script is (s.withScript is) rfl hwf

theorem runScript_wellFormed (m : Mode) (buf : List Byte) : ∀ i ∈ runScript m buf, i.wellFormed = true := by
  intro i hi
  rcases List.mem_cons.1 hi with rfl | hi
  · cases m <;> rfl
  rcases List.mem_append.1 hi with hi | hi
  · obtain ⟨b, -, rfl⟩ := List.mem_map.1 hi
    rfl
  · obtain rfl := List.mem_singleton.1 hi
    rfl

/-- A script that begins with a `START` reads no register of the state before it (10_state R27). -/
theorem commands_start (m : Mode) (is : List Instr) (r r' : Regs) :
    commands sig (m.start :: is) r = commands sig (m.start :: is) r' := by
  rw [commands, commands, command_start sig m r r']

/-- Settles O13: a run is a script that begins with a `START`, and the fold of the commands reads nothing but the
signature from there on. -/
theorem runDoesNotDependOnTheStateBefore : Obligations.RunDoesNotDependOnTheStateBefore := by
  intro mode buf s s' hsig
  have hwf := runScript_wellFormed mode buf
  rw [run, run, runScriptFrom_eq_commands _ s hwf, runScriptFrom_eq_commands _ s' hwf, hsig, runScript,
    commands_start mode _ s.regs s'.regs]

/-! ### Registers that hold a draw -/

/-- The registers agree, but for what a reset draws while nothing has begun: the control registers agree, and all of
them as soon as `PHASE` is not `IDLE` (10_state R26). -/
structure Regs.AgreeUpToDraw (r r' : Regs) : Prop where
  phase : r.phase = r'.phase
  mode : r.mode = r'.mode
  err : r.err = r'.err
  regs : r.phase ≠ .idle → r = r'

/-- Two machines agree but for what a reset draws and for the number of resets. -/
structure State.AgreeUpToDraw (s s' : State) : Prop where
  regs : s.regs.AgreeUpToDraw s'.regs
  sig : s.sig = s'.sig
  input : s.input = s'.input

theorem Regs.AgreeUpToDraw.refl (r : Regs) : r.AgreeUpToDraw r := ⟨rfl, rfl, rfl, fun _ => rfl⟩

theorem Regs.afterReset_agreeUpToDraw (n n' : Nat) : (Regs.afterReset n).AgreeUpToDraw (Regs.afterReset n') :=
  ⟨rfl, rfl, rfl, fun h => absurd rfl h⟩

/-- In `IDLE` a `START` overwrites the drawn registers and anything else is refused; elsewhere there are none. -/
theorem command_agreeUpToDraw (sig : Config.Signature) (i : Instr) (h : r.AgreeUpToDraw r') :
    (command sig i r).1.AgreeUpToDraw (command sig i r').1 ∧ (command sig i r).2 = (command sig i r').2 := by
  by_cases hidle : r.phase = .idle
  · rcases hs : isStart i with _ | _
    · have hr : r.phase.isActive = false := by rw [hidle]; rfl
      have hr' : r'.phase.isActive = false := h.phase ▸ hr
      rw [command_resting hr hs, command_resting hr' hs]
      exact ⟨h, rfl⟩
    · obtain ⟨m, rfl⟩ := isStart_iff.1 hs
      rw [command_start sig m r r']
      exact ⟨.refl _, rfl⟩
  · obtain rfl := h.regs hidle
    exact ⟨.refl _, rfl⟩

theorem stepOn_agreeUpToDraw (inp : Input) (h : s.AgreeUpToDraw s') (ht : stepOn inp s = .next t)
    (ht' : stepOn inp s' = .next t') : t.AgreeUpToDraw t' ∧ t.rsp = t'.rsp := by
  obtain ⟨hregs, hsig, hin⟩ := h
  obtain ⟨rst, cmd⟩ := inp
  rcases rst with _ | _
  · rcases cmd with _ | w
    · cases ht; cases ht'
      exact ⟨⟨hregs, hsig, hin⟩, rfl⟩
    · rw [stepOn_command_eq] at ht ht'
      rw [← hsig] at ht'
      cases ht; cases ht'
      obtain ⟨hr, hrsp⟩ := command_agreeUpToDraw s.sig (decode w) hregs
      exact ⟨⟨hr, rfl, hin⟩, congrArg some hrsp⟩
  · cases ht; cases ht'
    exact ⟨⟨Regs.afterReset_agreeUpToDraw _ _, hsig, hin⟩, rfl⟩

theorem step_agreeUpToDraw (h : s.AgreeUpToDraw s') (ht : step s = .next t) (ht' : step s' = .next t') :
    t.AgreeUpToDraw t' ∧ t.rsp = t'.rsp := by
  obtain ⟨hregs, hsig, hin⟩ := h
  have hagree : State.AgreeUpToDraw { s with input := s.input.tail } { s' with input := s.input.tail } :=
    ⟨hregs, hsig, rfl⟩
  rw [step_eq_stepOn] at ht ht'
  rw [State.driven, ← hin] at ht'
  exact stepOn_agreeUpToDraw _ hagree ht ht'

/-- Machines that agree up to the draw stay so for ever, and answer alike. -/
theorem trace_agreeUpToDraw (n : Nat) (h : s.AgreeUpToDraw s') :
    List.Forall₂ (fun t t' => t.AgreeUpToDraw t' ∧ t.rsp = t'.rsp) (trace n s) (trace n s') := by
  induction n generalizing s s' with
  | zero => exact .nil
  | succ n ih =>
    obtain ⟨t, ht⟩ := step_total s
    obtain ⟨t', ht'⟩ := step_total s'
    have hnext := step_agreeUpToDraw h ht ht'
    rw [trace_succ_of_step n ht, trace_succ_of_step n ht']
    exact .cons hnext (ih hnext.1)

/-- Settles O8: two idle machines agree up to the draw, and machines that do so stay in lockstep. -/
theorem unspecifiedRegistersAreNeverRead : Obligations.UnspecifiedRegistersAreNeverRead := by
  intro s s' hp hp' hm he hsig hin n k t t' ht ht'
  have hagree : s.AgreeUpToDraw s' := ⟨⟨hp.trans hp'.symm, hm, he, fun h => absurd hp h⟩, hsig, hin⟩
  obtain ⟨hk, rfl⟩ := List.getElem?_eq_some_iff.1 ht
  obtain ⟨hk', rfl⟩ := List.getElem?_eq_some_iff.1 ht'
  obtain ⟨⟨⟨hphase, hmode, herr, hregs⟩, -, -⟩, hrsp⟩ := (trace_agreeUpToDraw n hagree).get hk hk'
  exact ⟨hrsp, hphase, hmode, herr, hregs⟩

/-- Settles O6: with nothing on the port, the input list empty or not, the step is `State.stayIdle`. -/
theorem stepWithoutCommandChangesNoRegister : Obligations.StepWithoutCommandChangesNoRegister :=
  ⟨fun _ h => step_nil h, fun _ _ h => step_cons h⟩

end Sys2Proof.Machine

/-! PROOFS. The frame of every command, register by register (10_state R10). -/

namespace Sys2Proof.Machine

variable {sig : Config.Signature} {b : Byte} {r : Regs} {a : Regs × Response}

theorem cnt_eq_one_of_pred {c : Word} (h : c - 1 = 0) : c = 1 := by bv_omega

/-! ### `PUSH`: where each register can change -/

theorem PushCase.mode_eq (h : PushCase sig b r a) : a.1.mode = r.mode := by cases h <;> rfl

theorem PushCase.phase_of_crc_ne (h : PushCase sig b r a) (hne : a.1.crc ≠ r.crc) :
    r.phase = .stream ∨ r.phase = .type ∨ r.phase = .payload ∨ (r.phase = .len ∧ r.cnt = 1) := by
  cases h with
  | stream hp => exact .inl hp
  | typeMore hp | typeIllegal _ hp | typeTag hp | typeEmpty hp | typePayload hp => exact .inr (.inl hp)
  | payloadMore hp | payloadLast hp => exact .inr (.inr (.inl hp))
  | lenLast hp hc => exact .inr (.inr (.inr ⟨hp, cnt_eq_one_of_pred hc⟩))
  | _ => exact absurd rfl hne

theorem PushCase.phase_of_len_ne (h : PushCase sig b r a) (hne : a.1.len ≠ r.len) : r.phase = .len := by
  cases h with
  | lenMore hp | lenLast hp => exact hp
  | _ => exact absurd rfl hne

theorem PushCase.phase_of_type_ne (h : PushCase sig b r a) (hne : a.1.type ≠ r.type) : r.phase = .type := by
  cases h with
  | typeMore hp | typeIllegal _ hp | typeTag hp | typeEmpty hp | typePayload hp => exact hp
  | _ => exact absurd rfl hne

theorem PushCase.phase_of_csum_ne (h : PushCase sig b r a) (hne : a.1.csum ≠ r.csum) : r.phase = .csum := by
  cases h with
  | csumMore hp | csumChunk hp | csumCont hp | csumWrong hp => exact hp
  | _ => exact absurd rfl hne

theorem PushCase.phase_of_cnt_ne (h : PushCase sig b r a) (hne : a.1.cnt ≠ r.cnt) :
    r.phase = .sig ∨ r.phase = .len ∨ r.phase = .type ∨ r.phase = .payload ∨ r.phase = .csum := by
  cases h with
  | resting | stream | sigWrong => exact absurd rfl hne
  | sigMore hp | sigLast hp => exact .inl hp
  | lenMore hp | lenLast hp => exact .inr (.inl hp)
  | typeMore hp | typeIllegal _ hp | typeTag hp | typeEmpty hp | typePayload hp => exact .inr (.inr (.inl hp))
  | payloadMore hp | payloadLast hp => exact .inr (.inr (.inr (.inl hp)))
  | csumMore hp | csumChunk hp | csumCont hp | csumWrong hp => exact .inr (.inr (.inr (.inr hp)))

theorem PushCase.phase_of_facets_ne (h : PushCase sig b r a) (hne : a.1.facets ≠ r.facets) :
    r.phase = .type ∧ r.cnt = 1 := by
  cases h with
  | typeIllegal _ hp hc | typeTag hp hc | typeEmpty hp hc | typePayload hp hc => exact ⟨hp, cnt_eq_one_of_pred hc⟩
  | _ => exact absurd rfl hne

/-- `ERR` is written only where an error is raised (60_exceptions R200). -/
theorem PushCase.raised_of_err_ne (h : PushCase sig b r a) (hne : a.1.err ≠ r.err) :
    a.1.phase = .err ∧ ∃ e, a.2 = .ack (.err e) := by
  cases h with
  | sigWrong | typeIllegal | csumWrong => exact ⟨rfl, _, rfl⟩
  | _ => exact absurd rfl hne

theorem PushCase.not_refused_of_phase_ne (h : PushCase sig b r a) (hne : a.1.phase ≠ r.phase) : a.2 ≠ .refused := by
  cases h with
  | resting => exact absurd rfl hne
  | _ => exact Response.noConfusion

/-! ### `END`: nothing but `PHASE` and `ERR` -/

theorem EndCase.regs_eq (h : EndCase r a) : a.1 = { r with phase := a.1.phase, err := a.1.err } := by
  cases h <;> rfl

theorem EndCase.raised_of_err_ne (h : EndCase r a) (hne : a.1.err ≠ r.err) :
    a.1.phase = .err ∧ ∃ e, a.2 = .ack (.err e) := by
  cases h with
  | inSignature | inField => exact ⟨rfl, _, rfl⟩
  | resting | complete => exact absurd rfl hne

theorem EndCase.not_refused_of_phase_ne (h : EndCase r a) (hne : a.1.phase ≠ r.phase) : a.2 ≠ .refused := by
  cases h with
  | resting => exact absurd rfl hne
  | complete | inSignature | inField => exact Response.noConfusion

/-! ### Every command -/

/-- Settles O31: a `START` may write every register, a `PUSH` those its phase names, an `END` only `PHASE` and `ERR`, and a
reserved word none. -/
theorem registersChangeOnlyWhereTheirRuleSays : Obligations.RegistersChangeOnlyWhereTheirRuleSays := by
  intro i s t h
  obtain rfl := exec_next h
  rcases command_case s.sig i s.regs with ⟨m, p, c, heq, hstart⟩ | ⟨b, rfl, hpush⟩ | ⟨rfl, hend⟩ | ⟨-, heq⟩
  · have hs : isStart i = true := by
      rcases hstart with ⟨rfl, -⟩ | ⟨rfl, -⟩ | ⟨rfl, -⟩ | ⟨rfl, -⟩ <;> rfl
    simp [hs, heq]
  · have hraise := hpush.raised_of_err_ne
    have hanswer := hpush.not_refused_of_phase_ne
    exact ⟨fun hne => absurd hpush.mode_eq hne,
      fun hne => .inr ((hraise hne).imp_right fun ⟨e, he⟩ => ⟨e, congrArg some he⟩),
      fun hne => .inr ⟨rfl, hpush.phase_of_crc_ne hne⟩,
      fun hne => .inr ⟨rfl, hpush.phase_of_len_ne hne⟩,
      fun hne => .inr ⟨rfl, hpush.phase_of_type_ne hne⟩,
      fun hne => .inr ⟨rfl, hpush.phase_of_csum_ne hne⟩,
      fun hne => .inr ⟨rfl, hpush.phase_of_cnt_ne hne⟩,
      fun hne => .inr ⟨rfl, hpush.phase_of_facets_ne hne⟩,
      fun hne => mt Option.some.inj (hanswer hne), rfl, rfl, rfl⟩
  · have hregs := hend.regs_eq
    have hraise := hend.raised_of_err_ne
    have hanswer := hend.not_refused_of_phase_ne
    exact ⟨fun hne => absurd (congrArg Regs.mode hregs) hne,
      fun hne => .inr ((hraise hne).imp_right fun ⟨e, he⟩ => ⟨e, congrArg some he⟩),
      fun hne => absurd (congrArg Regs.crc hregs) hne,
      fun hne => absurd (congrArg Regs.len hregs) hne,
      fun hne => absurd (congrArg Regs.type hregs) hne,
      fun hne => absurd (congrArg Regs.csum hregs) hne,
      fun hne => absurd (congrArg Regs.cnt hregs) hne,
      fun hne => absurd (congrArg Regs.facets hregs) hne,
      fun hne => mt Option.some.inj (hanswer hne), rfl, rfl, rfl⟩
  · simp [heq]

end Sys2Proof.Machine

/-! PROOFS. `PUSH` outside the invariants of 10_state R28 (notes/assumptions/8.md). -/

namespace Sys2Proof.Machine

variable {sig : Config.Signature} {b : Byte} {r : Regs}

/-- Settles O17: outside 1 to 8 `SIG[8 - CNT]` is no signature byte, so no byte matches. -/
theorem pushInSigOutsideTheInvariant : Obligations.PushInSigOutsideTheInvariant := by
  intro s b hp hcnt
  have houtside : s.regs.cnt = 0 ∨ 8 < s.regs.cnt.toNat := hcnt.imp_left fun h => BitVec.eq_of_toNat_eq h
  have hnone := expectedSigByte_outside s.sig s.regs.cnt houtside
  rw [exec_push, push_sigWrong hp (hnone ▸ nofun)]

/-- Settles O58: `0 - 1` is `0xFFFFFFFF`, so the field goes on. -/
theorem pushWithCountZeroWraps : Obligations.PushWithCountZeroWraps := by
  intro s b hzero
  have hwrap : s.regs.cnt - 1 = 0xFFFFFFFF := by rw [hzero]; decide
  have hmore : s.regs.cnt - 1 ≠ 0 := by rw [hwrap]; decide
  refine ⟨fun hp => ?_, fun hp => ?_, fun hp => ?_, fun hp => ?_⟩
  · rw [exec_push, push_lenMore hp hmore, hwrap]
  · rw [exec_push, push_typeMore hp hmore, Regs.afterTypeByte, hwrap]
  · rw [exec_push, push_payloadMore hp hmore, hwrap]
  · rw [exec_push, push_csumMore hp hmore, hwrap]

end Sys2Proof.Machine

/-! PROOFS. The order of commands along a script (20_memory R39). -/

namespace Sys2Proof.Machine

/-- Settles O26: by `trace_script`, an induction over the script in which each step executes the command that the host's
word encodes and leaves the rest of the script on the port. -/
theorem scriptIsAFoldOfTheStepFunction : Obligations.ScriptIsAFoldOfTheStepFunction :=
  runScriptFrom_eq_commands

end Sys2Proof.Machine

/-! PROOFS. The command word: its fields, and that decoding and encoding agree (30_encoding Part B). -/

namespace Sys2Proof.Machine

variable {i : Instr}

/-! ### The fields of a command word -/

/-- Fields side by side as a number; the library has it with `<<<` and `|||`, which `omega` does not read. -/
theorem toNat_append_eq_mul_add {m n : Nat} (x : BitVec m) (y : BitVec n) :
    (x ++ y).toNat = x.toNat * 2 ^ n + y.toNat := by
  rw [BitVec.toNat_append, ← Nat.shiftLeft_add_eq_or_of_lt y.isLt, Nat.shiftLeft_eq]

theorem opField_append_dataField (w : CmdWord) : opField w ++ dataField w = w :=
  BitVec.extractLsb'_append_extractLsb' (w := 2) (len := 8)

theorem opField_append_startFields (w : CmdWord) :
    opField w ++ startZeroField w ++ startModeField w = w := by
  have hupper : opField w ++ startZeroField w = w.extractLsb' 2 8 :=
    BitVec.extractLsb'_append_extractLsb'_eq_extractLsb' rfl
  rw [hupper]
  exact BitVec.extractLsb'_append_extractLsb' (w := 8) (len := 2)

theorem wellFormed_decodeStart (m : BitVec 2) : (decodeStart m).wellFormed = true := by
  revert m; decide

theorem encode_decodeStart (m : BitVec 2) : encode (decodeStart m) = 0b00#2 ++ 0#6 ++ m := by
  revert m; decide

/-! ### From a word to its command and back -/

/-- Only terms a word can carry come out of the decoder: its tests of `CMD[7:2]` and `CMD[7:0]` are the conditions of
the reserved rows (30_encoding R59). -/
theorem wellFormed_decode (w : CmdWord) : (decode w).wellFormed = true := by
  unfold decode
  split
  · split
    · exact wellFormed_decodeStart _
    · next hzero => exact bne_iff_ne.mpr hzero
  · split
    · rfl
    · split
      · split
        · rfl
        · next hdata => exact bne_iff_ne.mpr hdata
      · rfl

/-- Each branch of the decoder knows the fields it tested, and keeps the others in the command: put together they are
the word. -/
theorem encode_decode (w : CmdWord) : encode (decode w) = w := by
  have hdata := opField_append_dataField w
  have hstart := opField_append_startFields w
  unfold decode
  split
  next hop =>
    rw [hop] at hstart
    split
    · next hzero => rw [encode_decodeStart]; rwa [hzero] at hstart
    · exact hstart
  next hop0 =>
    split
    next hop => rwa [hop] at hdata
    next hop1 =>
      split
      next hop =>
        rw [hop] at hdata
        split
        · next hzero => rwa [hzero] at hdata
        · exact hdata
      next hop2 =>
        have hop : opField w = 0b11#2 := by bv_omega
        rwa [hop] at hdata

/-- Settles O2: `decode_encode` by the constructors of the command, `encode_decode` by the branches of the decoder. -/
theorem decodeAndEncodeAgree : Obligations.DecodeAndEncodeAgree :=
  ⟨fun _ => decode_encode, fun w => ⟨wellFormed_decode w, encode_decode w⟩⟩

/-! ### The words of the commands as numbers -/

theorem encode_push_toNat (b : Byte) : (encode (.push b)).toNat = 0x100 + b.toNat := toNat_append_eq_mul_add _ _

theorem encode_reservedStart_toNat (x : BitVec 6) (m : BitVec 2) :
    (encode (.reservedStart x m)).toNat = x.toNat * 4 + m.toNat := by
  simp only [encode, toNat_append_eq_mul_add]
  simp

theorem encode_reservedEnd_toNat (x : Byte) : (encode (.reservedEnd x)).toNat = 0x200 + x.toNat :=
  toNat_append_eq_mul_add _ _

theorem encode_reservedOp3_toNat (x : Byte) : (encode (.reservedOp3 x)).toNat = 0x300 + x.toNat :=
  toNat_append_eq_mul_add _ _

/-- R57 gives the word of `PUSH b` as a sum, the model as fields side by side. -/
theorem encode_push (b : Byte) : encode (.push b) = 0x100#10 + b.setWidth 10 := by
  apply BitVec.eq_of_toNat_eq
  rw [encode_push_toNat, BitVec.toNat_add, BitVec.toNat_setWidth, BitVec.toNat_ofNat]
  omega

/-- Settles O1: the words of R56 and R58 by evaluation, those of `PUSH` by `encode_push`. -/
theorem commandWordsOfStartPushEnd : Obligations.CommandWordsOfStartPushEnd := by
  refine ⟨by decide, by decide, fun b => ⟨?_, encode_push b⟩, by decide⟩
  rw [← encode_push]
  exact decode_encode rfl

/-! ### The reserved words -/

/-- The commands whose words lie in the three ranges of 30_encoding R59 are the reserved ones. -/
theorem isReserved_iff_word (h : i.wellFormed = true) :
    isReserved i = true ↔
      (0x004 ≤ (encode i).toNat ∧ (encode i).toNat ≤ 0x0FF) ∨ (0x201 ≤ (encode i).toNat ∧ (encode i).toNat ≤ 0x2FF) ∨
        (0x300 ≤ (encode i).toNat ∧ (encode i).toNat ≤ 0x3FF) := by
  cases i with
  | startCrc | startTag | startChunk | startCont | endBuffer => decide
  | push b =>
    rw [encode_push_toNat]
    exact iff_of_false nofun (by omega)
  | reservedStart x m =>
    have hx : x ≠ 0 := bne_iff_ne.mp h
    have hpos : 0 < x.toNat := by bv_omega
    rw [encode_reservedStart_toNat]
    exact iff_of_true rfl (by omega)
  | reservedEnd x =>
    have hx : x ≠ 0 := bne_iff_ne.mp h
    have hpos : 0 < x.toNat := by bv_omega
    rw [encode_reservedEnd_toNat]
    exact iff_of_true rfl (by omega)
  | reservedOp3 x =>
    rw [encode_reservedOp3_toNat]
    exact iff_of_true rfl (by omega)

/-- A reserved command is refused, whatever the registers hold (40_commands R80). -/
theorem command_reserved (sig : Config.Signature) (r : Regs) (h : isReserved i = true) :
    command sig i r = (r, .refused) := by
  cases i with
  | reservedStart | reservedEnd | reservedOp3 => rfl
  | startCrc | startTag | startChunk | startCont | push | endBuffer => cases h

/-- Settles O3: every word is that of the command it decodes to (O2), so the ranges are those of
`isReserved_iff_word`. -/
theorem reservedWordsAreRefusedInEveryPhase : Obligations.ReservedWordsAreRefusedInEveryPhase := by
  refine ⟨fun w => ?_, fun s w rest hres hin => ?_, rfl⟩
  · simpa only [encode_decode] using isReserved_iff_word (wellFormed_decode w)
  · rw [step_cons hin, stepOn_command_eq, command_reserved _ _ hres]

end Sys2Proof.Machine

/-! PROOFS. What the host reads: the response word and the status port (30_encoding Part C). -/

namespace Sys2Proof.Machine

/-! ### The fields of the response word -/

theorem Event.code_le_four (e : Event) : e.code.toNat ≤ 4 := by
  cases e <;> simp [Event.code]

theorem Response.ack_word_toNat (e : Event) : (Response.ack e).word.toNat = e.code.toNat * 256 + e.data.toNat := by
  simp only [Response.word, toNat_append_eq_mul_add]
  simp

/-- `RSP[10:8]` (30_encoding R60). -/
theorem Response.ack_word_code (e : Event) : (Response.ack e).word.extractLsb' 8 3 = e.code := by
  have hle : e.code.toNat < 8 := e.code.isLt
  apply BitVec.eq_of_toNat_eq
  rw [BitVec.extractLsb'_toNat, Response.ack_word_toNat, Nat.shiftRight_eq_div_pow]
  omega

/-- `RSP[11]`, the refusal bit (30_encoding R60). -/
theorem Response.ack_word_refusalBit (e : Event) : (Response.ack e).word.getLsbD 11 = false := by
  simp only [Response.word, BitVec.getLsbD_append]
  simp

/-- Settles O36: the constant words by evaluation, the fields of an accepted command's word by the lemmas above. -/
theorem responseWordLayout : Obligations.ResponseWordLayout := by
  refine ⟨rfl, fun b => ?_, rfl, rfl, fun e => by cases e <;> decide, rfl, fun p => ?_⟩
  · apply BitVec.eq_of_toNat_eq
    rw [Response.ack_word_toNat, BitVec.toNat_add, BitVec.toNat_setWidth, BitVec.toNat_ofNat]
    change 1 * 256 + b.toNat = _
    omega
  · cases p with
    | refused => decide
    | ack e =>
      rw [Response.ack_word_code, Response.ack_word_refusalBit]
      exact ⟨e.code_le_four, nofun, nofun⟩

/-- Settles O37: `statusPort` shows each register as it is, and the codes are values of finite tables. -/
theorem statusPortShowsTheRegisters : Obligations.StatusPortShowsTheRegisters :=
  ⟨fun _ => rfl, by decide, by decide, by decide⟩

end Sys2Proof.Machine

/-! PROOFS. Big-endian fields (20_memory R33, 30_encoding R53). -/

namespace Sys2Proof.Machine

/-- One byte shifted in moves the low three bytes up (30_encoding R53). -/
theorem shiftIn_toNat (reg : Word) (b : Byte) : (shiftIn reg b).toNat = reg.toNat % 2 ^ 24 * 2 ^ 8 + b.toNat :=
  toNat_append_eq_mul_add _ _

/-- The first byte is the most significant (20_memory R33). -/
theorem unbe32_toNat (b0 b1 b2 b3 : Byte) :
    (unbe32 b0 b1 b2 b3).toNat = b0.toNat * 2 ^ 24 + b1.toNat * 2 ^ 16 + b2.toNat * 2 ^ 8 + b3.toNat := by
  simp only [unbe32, toNat_append_eq_mul_add]
  omega

/-- Each byte shifted in pushes one byte of the old value out, so after four nothing of it is left. -/
theorem shiftIn_four (reg : Word) (b0 b1 b2 b3 : Byte) :
    shiftIn (shiftIn (shiftIn (shiftIn reg b0) b1) b2) b3 = unbe32 b0 b1 b2 b3 := by
  apply BitVec.eq_of_toNat_eq
  simp only [shiftIn_toNat, unbe32_toNat]
  omega

theorem be32_unbe32 (b0 b1 b2 b3 : Byte) : be32 (unbe32 b0 b1 b2 b3) = [b0, b1, b2, b3] := by
  simp (disch := decide) only [be32, unbe32, BitVec.extractLsb'_append_eq_of_le,
    BitVec.extractLsb'_append_eq_of_add_le]
  simp

theorem TypeTag.toWord_eq_unbe32 (t : TypeTag) : t.toWord = unbe32 t.t0 t.t1 t.t2 t.t3 := rfl

theorem TypeTag.bytes_injective : Function.Injective TypeTag.bytes := by
  rintro ⟨⟩ ⟨⟩ h
  simpa [TypeTag.bytes] using h

theorem TypeTag.bytes_ofWord (v : Word) : (TypeTag.ofWord v).bytes = be32 v := rfl

theorem TypeTag.ofWord_toWord (t : TypeTag) : TypeTag.ofWord t.toWord = t := by
  apply TypeTag.bytes_injective
  rw [TypeTag.bytes_ofWord, TypeTag.toWord_eq_unbe32, be32_unbe32, TypeTag.bytes]

/-- Settles O48: the old value leaves by `shiftIn_four`, the rest is the value and the bytes of a big-endian field. -/
theorem fourBytesAssembleBigEndian : Obligations.FourBytesAssembleBigEndian :=
  ⟨shiftIn_four, unbe32_toNat, be32_unbe32, fun t => ⟨t.ofWord_toWord, t.toWord_eq_unbe32⟩⟩

end Sys2Proof.Machine

/-! PROOFS. What each command answers: `PUSH` and `END` as functions of their case, refusal, the transition table and the
events (40_commands R70 to R81). -/

namespace Sys2Proof.Machine

variable {sig : Config.Signature} {i : Instr} {b : Byte} {r : Regs} {a : Regs × Response}

/-! ### The cases determine the answer -/

/-- The cases of `PUSH` exclude each other: whichever holds is what `PUSH` does. -/
theorem PushCase.push_eq (h : PushCase sig b r a) : push sig b r = a := by
  cases h with
  | resting hp => exact command_resting (i := .push b) hp rfl
  | stream hp => simp only [push, hp, pushStream, accept]
  | sigMore hp hb hc | sigLast hp hb hc => simp only [push, hp, pushSig, hb, hc, if_true, if_false, accept]
  | sigWrong hp hb => exact push_sigWrong hp hb
  | lenMore hp hc => exact push_lenMore hp hc
  | lenLast hp hc => simp only [push, hp, pushLen, hc, if_true, accept]
  | typeMore hp hc => exact push_typeMore hp hc
  | typeIllegal e hp hc ht =>
    simp only [Regs.tagAfter] at ht
    simp only [push, hp, pushType, hc, if_true, typeComplete, ht, raise, Regs.afterTypeByte, Regs.tagAfter]
  | typeTag hp hc ht hm =>
    simp only [Regs.tagAfter] at ht
    simp only [push, hp, pushType, hc, if_true, typeComplete, ht, hm, tagDone, accept, Regs.afterTypeByte, Regs.tagAfter]
  | typeEmpty hp hc ht hm hl | typePayload hp hc ht hm hl =>
    simp only [Regs.tagAfter] at ht
    simp only [push, hp, pushType, hc, if_true, typeComplete, ht, hm, if_false, openPayload, hl, accept,
      Regs.afterTypeByte, Regs.tagAfter]
  | payloadMore hp hc => exact push_payloadMore hp hc
  | payloadLast hp hc => simp only [push, hp, pushPayload, hc, if_true, accept]
  | csumMore hp hc => exact push_csumMore hp hc
  | csumChunk hp hc heq hm | csumCont hp hc heq hm =>
    simp only [push, hp, pushCsum, hc, if_true, csumComplete, heq, hm, if_false, accept]
  | csumWrong hp hc hne => simp only [push, hp, pushCsum, hc, if_true, csumComplete, hne, if_false, raise, ErrorKind.toErr]

/-- The cases of `END` exclude each other: whichever holds is what `END` does. -/
theorem EndCase.endBuffer_eq (h : EndCase r a) : endBuffer r = a := by
  cases h with
  | resting hp => exact command_resting (sig := Config.sig) (i := .endBuffer) hp rfl
  | complete h =>
    rcases h with hp | ⟨hp, hm⟩
    · simp only [endBuffer, hp, endComplete, accept]
    · simp only [endBuffer, hp, endLen, hm, and_self, if_true, endComplete, accept]
  | inSignature hp => simp only [endBuffer, hp, raise, ErrorKind.toErr]
  | inField h =>
    rcases h with ⟨hp, hm⟩ | hp | hp | hp
    · simp only [endBuffer, hp, endLen, hm, if_false, raise, ErrorKind.toErr]
    all_goals simp only [endBuffer, hp, raise, ErrorKind.toErr]

/-! ### Acceptance and refusal -/

theorem Phase.isActive_eq_false_iff (p : Phase) : p.isActive = false ↔ p = .idle ∨ p = .done ∨ p = .err := by
  cases p <;> decide

/-- A command that is refused with its registers kept changes nothing but the response. -/
theorem exec_of_refused {s : State} (h : command s.sig i s.regs = (s.regs, .refused)) :
    exec i s = .next { s with rsp := some .refused } := by
  rw [exec_eq_answer, h, State.answer_eq]

theorem PushCase.refused_iff (h : PushCase sig b r a) : a.2 = .refused ↔ r.phase.isActive = false := by
  cases h with
  | resting hp => exact iff_of_true rfl hp
  | _ => simp_all [Phase.isActive]

theorem EndCase.refused_iff (h : EndCase r a) : a.2 = .refused ↔ r.phase.isActive = false := by
  cases h with
  | resting hp => exact iff_of_true rfl hp
  | inSignature hp => simp [hp, Phase.isActive]
  | complete h => rcases h with hp | ⟨hp, -⟩ <;> simp [hp, Phase.isActive]
  | inField h => rcases h with ⟨hp, -⟩ | hp | hp | hp <;> simp [hp, Phase.isActive]

/-- Refused are the reserved words, and everything but `START` in a resting phase (40_commands R71). -/
theorem command_refused_iff (sig : Config.Signature) (i : Instr) (r : Regs) :
    (command sig i r).2 = .refused ↔ isReserved i = true ∨ (isStart i = false ∧ r.phase.isActive = false) := by
  cases i with
  | startCrc | startTag | startChunk | startCont => exact iff_of_false nofun (by simp [isReserved, isStart])
  | push b => simpa [isReserved, isStart, command] using (push_case sig b r).refused_iff
  | endBuffer => simpa [isReserved, isStart, command] using (end_case r).refused_iff
  | reservedStart | reservedEnd | reservedOp3 => exact iff_of_true rfl (.inl rfl)

/-- A refused command changes no register (40_commands R71). -/
theorem command_of_refused (h : (command sig i r).2 = .refused) : command sig i r = (r, .refused) := by
  rcases (command_refused_iff sig i r).1 h with hres | ⟨hs, hp⟩
  · exact command_reserved sig r hres
  · exact command_resting hp hs

/-- Settles O4: a reserved command is refused whatever its bits (`command_reserved`). -/
theorem reservedCommandsChangeNothing : Obligations.ReservedCommandsChangeNothing := by
  intro s
  have hrefused (i : Instr) (hres : isReserved i = true) : exec i s = .next { s with rsp := some .refused } :=
    exec_of_refused (command_reserved s.sig s.regs hres)
  exact ⟨fun _ _ => hrefused _ rfl, fun _ => hrefused _ rfl, fun _ => hrefused _ rfl⟩

/-- Settles O14: `command_resting` for `PUSH` and for `END`. -/
theorem restingPhasesRefusePushAndEnd : Obligations.RestingPhasesRefusePushAndEnd := by
  refine ⟨rfl, fun s hp => ?_⟩
  have hrest := (Phase.isActive_eq_false_iff _).2 hp
  exact ⟨fun b => exec_of_refused (command_resting hrest rfl), exec_of_refused (command_resting hrest rfl)⟩

/-- Settles O29: the table is `command_refused_iff`. -/
theorem acceptanceTable : Obligations.AcceptanceTable := by
  intro i s
  refine ⟨_, _, exec_eq_answer i s, ?_, fun h => congrArg Prod.fst (command_of_refused h)⟩
  rw [command_refused_iff, Phase.isActive_eq_false_iff]

/-- Settles O5: what stands on the port is decoded, and the word of a command decodes to it (`decode_encode`). -/
theorem stepExecutesTheIssuedCommand : Obligations.StepExecutesTheIssuedCommand := by
  refine ⟨fun s w rest hin => step_cons hin, fun s i rest hwf hin => ?_⟩
  rw [step_cons hin, issue, stepOn_command, decode_encode hwf]

/-- Settles O25: `exec` is the step function of R82 on the registers, which keeps the invariants (`command_inv`). -/
theorem stepFunctionIsTotalAndDeterministic : Obligations.StepFunctionIsTotalAndDeterministic := by
  intro i s
  refine ⟨(command s.sig i s.regs).1, (command s.sig i s.regs).2, fun s' hregs hsig => ?_, command_inv i⟩
  rw [exec_eq_answer, State.answer_eq, hregs, hsig]

/-! ### The transition table of 40_commands R78 -/

/-- In phase `SIG` within the invariants, the byte expected is the one the table names. -/
theorem Regs.Inv.expectedSigByte_eq (hi : r.Inv) (hp : r.phase = .sig) :
    expectedSigByte sig r.cnt = sig[8 - r.cnt.toNat]? :=
  have ⟨hone, height, _⟩ := hi.sigCount hp
  Machine.expectedSigByte_eq sig r.cnt hone height

/-- Within the invariants the count of an active phase that takes bytes is at least one. -/
theorem Regs.Inv.one_le_cnt (hi : r.Inv)
    (hp : r.phase = .sig ∨ r.phase = .len ∨ r.phase = .type ∨ r.phase = .payload ∨ r.phase = .csum) :
    1 ≤ r.cnt.toNat := by
  rcases hp with hp | hp | hp | hp | hp
  · exact (hi.sigCount hp).1
  · exact (hi.fieldCount (.inl hp)).1
  · exact (hi.fieldCount (.inr (.inl hp))).1
  · exact (hi.payloadCount hp).1
  · exact (hi.fieldCount (.inr (.inr hp))).1

/-- A count that does not run out at this byte has more than one byte to go. -/
theorem one_lt_of_pred_ne_zero {c : Word} (hone : 1 ≤ c.toNat) (hc : c - 1 ≠ 0) : 1 < c.toNat :=
  Nat.lt_of_le_of_ne hone fun h => hc ((cnt_pred_eq_zero_iff c).2 h.symm)

theorem pred_ne_zero_of_one_lt {c : Word} (hc : 1 < c.toNat) : c - 1 ≠ 0 :=
  fun h => hc.ne' ((cnt_pred_eq_zero_iff c).1 h)

/-- The two ways a tag is illegal, in the order of the tests (42_typetag R107). -/
theorem tagCheck_error_iff (t : TypeTag) (e : ErrorKind) :
    tagCheck t = .error e ↔
      (e = .reservedBitError ∧ isUpper t.t2 = false) ∨
        (e = .invalidByteError ∧ isUpper t.t2 = true ∧ ∃ x ∈ t.bytes, isAlpha x = false) := by
  have hbytes : (∃ x ∈ t.bytes, isAlpha x = false) ↔
      (isAlpha t.t0 && isAlpha t.t1 && isAlpha t.t2 && isAlpha t.t3) = false := by
    simp only [TypeTag.bytes, List.mem_cons, List.not_mem_nil, or_false, exists_eq_or_imp, exists_eq_left,
      Bool.and_eq_false_iff, or_assoc]
  rw [hbytes, tagCheck]
  generalize (isAlpha t.t0 && isAlpha t.t1 && isAlpha t.t2 && isAlpha t.t3) = alpha
  cases isUpper t.t2 <;> cases alpha <;> simp [@eq_comm _ e]

/-- Within the invariants what a `PUSH` does stands in the table. -/
theorem PushCase.transition (h : PushCase sig b r a) (hi : r.Inv) : Transition sig r (.push b) a.1.phase a.2 := by
  have more (hp : r.phase = .sig ∨ r.phase = .len ∨ r.phase = .type ∨ r.phase = .payload ∨ r.phase = .csum)
      (hc : r.cnt - 1 ≠ 0) : 1 < r.cnt.toNat := one_lt_of_pred_ne_zero (hi.one_le_cnt hp) hc
  have last (hc : r.cnt - 1 = 0) : r.cnt.toNat = 1 := (cnt_pred_eq_zero_iff _).1 hc
  cases h with
  | resting hp => exact .restingPush b hp
  | stream hp => simpa only [hp] using Transition.streamPush b hp
  | sigMore hp hb hc =>
    simpa only [hp] using Transition.sigMore b hp (hi.expectedSigByte_eq hp ▸ hb) (more (.inl hp) hc)
  | sigLast hp hb hc => exact .sigLast b hp (hi.expectedSigByte_eq hp ▸ hb) (last hc)
  | sigWrong hp hb => exact .sigWrong b hp (hi.expectedSigByte_eq hp ▸ hb)
  | lenMore hp hc => simpa only [hp] using Transition.lenMore b hp (more (by simp [hp]) hc)
  | lenLast hp hc => exact .lenLast b hp (last hc)
  | typeMore hp hc =>
    simpa only [Regs.afterTypeByte, hp] using Transition.typeMore b hp (more (by simp [hp]) hc)
  | typeIllegal e hp hc ht =>
    rcases (tagCheck_error_iff _ _).1 ht with ⟨rfl, hu⟩ | ⟨rfl, hu, ha⟩
    · exact .typeReserved b _ hp (last hc) rfl hu
    · exact .typeInvalid b _ hp (last hc) rfl hu ha
  | typeTag hp hc ht hm => exact .typeTag b hp (last hc) ht hm
  | typeEmpty hp hc ht hm hl =>
    exact .typeEmpty b hp (last hc) ht ((hi.typeMode hp).resolve_left hm) (by simp [hl])
  | typePayload hp hc ht hm hl =>
    exact .typePayload b hp (last hc) ht ((hi.typeMode hp).resolve_left hm) (countWithin_self hl).1
  | payloadMore hp hc => simpa only [hp] using Transition.payloadMore b hp (more (by simp [hp]) hc)
  | payloadLast hp hc => exact .payloadLast b hp (last hc)
  | csumMore hp hc => simpa only [hp] using Transition.csumMore b hp (more (by simp [hp]) hc)
  | csumChunk hp hc heq hm => exact .csumChunk b hp (last hc) heq hm
  | csumCont hp hc heq hm =>
    exact .csumCont b hp (last hc) heq ((hi.recordMode (.inr (.inr hp))).resolve_left hm)
  | csumWrong hp hc hne => exact .csumWrong b hp (last hc) hne

/-- What an `END` does stands in the table. -/
theorem EndCase.transition (h : EndCase r a) : Transition sig r .endBuffer a.1.phase a.2 := by
  cases h with
  | resting hp => exact .restingEnd hp
  | complete h =>
    rcases h with hp | ⟨hp, hm, hc⟩
    · exact .streamEnd hp
    · exact .lenBoundary hp hm (by rw [hc]; rfl)
  | inSignature hp => exact .sigEnd hp
  | inField h =>
    rcases h with ⟨hp, hm⟩ | hp | hp | hp
    · exact .lenCut hp fun ⟨hmode, hc⟩ => hm ⟨hmode, BitVec.eq_of_toNat_eq hc⟩
    · exact .typeEnd hp
    · exact .payloadEnd hp
    · exact .csumEnd hp

/-- Within the invariants every command follows a row of the table. -/
theorem command_transition (sig : Config.Signature) (i : Instr) (hi : r.Inv) :
    Transition sig r i (command sig i r).1.phase (command sig i r).2 := by
  cases i with
  | startCrc => exact .startCrc
  | startTag => exact .startTag
  | startChunk => exact .startChunk
  | startCont => exact .startCont
  | push b => exact (push_case sig b r).transition hi
  | endBuffer => exact (end_case r).transition
  | reservedStart | reservedEnd | reservedOp3 => exact .reserved _ rfl

theorem PushCase.phase_and_rsp (h : PushCase sig b r a) {ph : Phase} (hph : a.1.phase = ph) :
    (command sig (.push b) r).1.phase = ph ∧ (command sig (.push b) r).2 = a.2 := by
  rw [command, h.push_eq]
  exact ⟨hph, rfl⟩

theorem EndCase.phase_and_rsp (h : EndCase r a) :
    (command sig .endBuffer r).1.phase = a.1.phase ∧ (command sig .endBuffer r).2 = a.2 := by
  rw [command, h.endBuffer_eq]
  exact ⟨rfl, rfl⟩

/-- Within the invariants the table has no row but the one the command follows. -/
theorem Transition.command_eq {ph : Phase} {rsp : Response} (h : Transition sig r i ph rsp) (hi : r.Inv) :
    (command sig i r).1.phase = ph ∧ (command sig i r).2 = rsp := by
  have last (hc : r.cnt.toNat = 1) : r.cnt - 1 = 0 := (cnt_pred_eq_zero_iff _).2 hc
  have notTag (hm : r.mode = .chunk ∨ r.mode = .cont) : r.mode ≠ .tag := by rintro h; simp [h] at hm
  cases h with
  | startCrc | startTag | startChunk | startCont => exact ⟨rfl, rfl⟩
  | streamPush b hp => exact (PushCase.stream hp).phase_and_rsp hp
  | streamEnd hp => exact (EndCase.complete (.inl hp)).phase_and_rsp
  | sigMore b hp hb hc =>
    exact (PushCase.sigMore hp (hi.expectedSigByte_eq hp ▸ hb) (pred_ne_zero_of_one_lt hc)).phase_and_rsp hp
  | sigLast b hp hb hc => exact (PushCase.sigLast hp (hi.expectedSigByte_eq hp ▸ hb) (last hc)).phase_and_rsp rfl
  | sigWrong b hp hb => exact (PushCase.sigWrong hp (hi.expectedSigByte_eq hp ▸ hb)).phase_and_rsp rfl
  | sigEnd hp => exact (EndCase.inSignature hp).phase_and_rsp
  | lenMore b hp hc => exact (PushCase.lenMore hp (pred_ne_zero_of_one_lt hc)).phase_and_rsp hp
  | lenLast b hp hc => exact (PushCase.lenLast hp (last hc)).phase_and_rsp rfl
  | lenBoundary hp hm hc =>
    exact (EndCase.complete (.inr ⟨hp, hm, BitVec.eq_of_toNat_eq hc⟩)).phase_and_rsp
  | lenCut hp hm =>
    exact (EndCase.inField (.inl ⟨hp, fun ⟨hmode, hc⟩ => hm ⟨hmode, by rw [hc]; rfl⟩⟩)).phase_and_rsp
  | typeMore b hp hc => exact (PushCase.typeMore hp (pred_ne_zero_of_one_lt hc)).phase_and_rsp hp
  | typeReserved b tag hp hc ht hu =>
    subst ht
    exact (PushCase.typeIllegal _ hp (last hc) ((tagCheck_error_iff _ _).2 (.inl ⟨rfl, hu⟩))).phase_and_rsp rfl
  | typeInvalid b tag hp hc ht hu ha =>
    subst ht
    exact (PushCase.typeIllegal _ hp (last hc) ((tagCheck_error_iff _ _).2 (.inr ⟨rfl, hu, ha⟩))).phase_and_rsp rfl
  | typeTag b hp hc hok hm => exact (PushCase.typeTag hp (last hc) hok hm).phase_and_rsp rfl
  | typeEmpty b hp hc hok hm hl =>
    exact (PushCase.typeEmpty hp (last hc) hok (notTag hm) (BitVec.eq_of_toNat_eq hl)).phase_and_rsp rfl
  | typePayload b hp hc hok hm hl =>
    exact (PushCase.typePayload hp (last hc) hok (notTag hm) (by rintro h; simp [h] at hl)).phase_and_rsp rfl
  | typeEnd hp => exact (EndCase.inField (.inr (.inl hp))).phase_and_rsp
  | payloadMore b hp hc => exact (PushCase.payloadMore hp (pred_ne_zero_of_one_lt hc)).phase_and_rsp hp
  | payloadLast b hp hc => exact (PushCase.payloadLast hp (last hc)).phase_and_rsp rfl
  | payloadEnd hp => exact (EndCase.inField (.inr (.inr (.inl hp)))).phase_and_rsp
  | csumMore b hp hc => exact (PushCase.csumMore hp (pred_ne_zero_of_one_lt hc)).phase_and_rsp hp
  | csumChunk b hp hc heq hm => exact (PushCase.csumChunk hp (last hc) heq hm).phase_and_rsp rfl
  | csumCont b hp hc heq hm =>
    exact (PushCase.csumCont hp (last hc) heq (by rw [hm]; decide)).phase_and_rsp rfl
  | csumWrong b hp hc hne => exact (PushCase.csumWrong hp (last hc) hne).phase_and_rsp rfl
  | csumEnd hp => exact (EndCase.inField (.inr (.inr (.inr hp)))).phase_and_rsp
  | restingPush b hp => exact (PushCase.resting hp).phase_and_rsp rfl
  | restingEnd hp => exact (EndCase.resting hp).phase_and_rsp
  | reserved i hres => rw [command_reserved sig r hres]; exact ⟨rfl, rfl⟩

/-- Settles O30: the command follows a row (`command_transition`), and no row is another (`Transition.command_eq`). -/
theorem phaseChangesAreTheTransitionTable : Obligations.PhaseChangesAreTheTransitionTable := by
  intro i s t ph rsp hi h
  obtain rfl := exec_next h
  constructor
  · intro htable
    obtain ⟨hph, hrsp⟩ := htable.command_eq hi
    exact ⟨hph, congrArg some hrsp⟩
  · rintro ⟨rfl, hrsp⟩
    exact Option.some.inj hrsp ▸ command_transition s.sig i hi

/-! ### The events of each command (40_commands R81) -/

theorem PushCase.payload_iff (h : PushCase sig b r a) (x : Byte) :
    a.2 = .ack (.payload x) ↔ r.phase = .payload ∧ x = b := by
  cases h with
  | payloadMore hp | payloadLast hp => simp [hp, eq_comm]
  | resting hp => simp; rintro h; simp [h, Phase.isActive] at hp
  | _ => simp_all

theorem PushCase.chunk_iff (h : PushCase sig b r a) :
    a.2 = .ack .chunk ↔ r.phase = .csum ∧ r.cnt = 1 ∧ shiftIn r.csum b = crcOut r.crc := by
  cases h with
  | csumChunk hp hc heq | csumCont hp hc heq => exact iff_of_true rfl ⟨hp, cnt_eq_one_of_pred hc, heq⟩
  | csumMore hp hc => exact iff_of_false nofun fun ⟨_, h, _⟩ => hc (by rw [h]; rfl)
  | resting hp => exact iff_of_false nofun fun ⟨h, _⟩ => by simp [h, Phase.isActive] at hp
  | _ => simp_all

theorem PushCase.done_iff (h : PushCase sig b r a) :
    a.2 = .ack .done ↔ r.phase = .type ∧ r.cnt = 1 ∧ r.mode = .tag ∧
      tagCheck (TypeTag.ofWord (shiftIn r.type b)) = .ok () := by
  cases h with
  | typeTag hp hc ht hm => exact iff_of_true rfl ⟨hp, cnt_eq_one_of_pred hc, hm, ht⟩
  | typeMore hp hc => exact iff_of_false nofun fun ⟨_, h, _⟩ => hc (by rw [h]; rfl)
  | typeIllegal _ _ _ ht => exact iff_of_false nofun fun ⟨_, _, _, h⟩ => nomatch ht.symm.trans h
  | typeEmpty _ _ _ hm | typePayload _ _ _ hm => exact iff_of_false nofun fun ⟨_, _, h, _⟩ => hm h
  | resting hp => exact iff_of_false nofun fun ⟨h, _⟩ => by simp [h, Phase.isActive] at hp
  | _ => simp_all

/-- `END` ends an operation or is refused. -/
theorem EndCase.rsp (h : EndCase r a) : a.2 = .refused ∨ a.2 = .ack .done ∨ ∃ e, a.2 = .ack (.err e) := by
  cases h with
  | resting => exact .inl rfl
  | complete => exact .inr (.inl rfl)
  | inSignature | inField => exact .inr (.inr ⟨_, rfl⟩)

/-- Settles O32: a `START` answers with no event, the events of `PUSH` are those of its cases. -/
theorem eventsOfEachCommand : Obligations.EventsOfEachCommand := by
  intro i s t h
  obtain rfl := exec_next h
  refine ⟨fun hs => ?_, ?_, ?_⟩
  · obtain ⟨m, rfl⟩ := isStart_iff.1 hs
    cases m <;> rfl
  · rintro b rfl
    have hcase := push_case s.sig b s.regs
    simp only [command, Option.some.injEq, hcase.payload_iff, hcase.chunk_iff, hcase.done_iff]
    simp
  · rintro rfl
    simpa [command] using (end_case s.regs).rsp

end Sys2Proof.Machine

/-! PROOFS. How an operation ends: after the response that ends it nothing but `START` is accepted, and a run has exactly one
outcome (40_commands R81, R83). -/

namespace Sys2Proof.Machine

variable {sig : Config.Signature} {i : Instr} {is : List Instr} {b : Byte} {r : Regs} {a a' : Regs × Response}
  {mode : Mode} {s t : State}

/-! ### A script in a resting phase -/

/-- In a resting phase a script without a `START` is refused to its end and changes no register. -/
theorem commands_resting (hp : r.phase.isActive = false) (his : ∀ i ∈ is, isStart i = false) :
    commands sig is r = List.replicate is.length (r, .refused) := by
  induction is with
  | nil => rfl
  | cons i is ih =>
    obtain ⟨hi, his⟩ := List.forall_mem_cons.1 his
    rw [commands, command_resting hp hi, ih his, List.length_cons, List.replicate_succ]

theorem PushCase.resting_of_final (h : PushCase sig b r a) (hfinal : isFinal (some a.2) = true) :
    a.1.phase.isActive = false := by
  cases h with
  | sigWrong | typeIllegal | typeTag | csumWrong => rfl
  | _ => cases hfinal

theorem EndCase.resting_of_final (h : EndCase r a) (hfinal : isFinal (some a.2) = true) :
    a.1.phase.isActive = false := by
  cases h with
  | complete | inSignature | inField => rfl
  | resting => cases hfinal

/-- The event `DONE` or `ERR` leaves the block in a resting phase. -/
theorem command_resting_of_final (h : isFinal (some (command sig i r).2) = true) :
    (command sig i r).1.phase.isActive = false := by
  rcases command_case sig i r with ⟨m, p, c, heq, -⟩ | ⟨b, -, hcase⟩ | ⟨-, hcase⟩ | ⟨-, heq⟩
  · rw [heq] at h; exact nomatch h
  · exact hcase.resting_of_final h
  · exact hcase.resting_of_final h
  · rw [heq] at h; exact nomatch h

/-- After the command that ends the operation, a script without a `START` is refused and changes no register. -/
theorem commands_after_final {k k' : Nat} (his : ∀ i ∈ is, isStart i = false) (ha : (commands sig is r)[k]? = some a)
    (hfinal : isFinal (some a.2) = true) (ha' : (commands sig is r)[k']? = some a') (hlt : k < k') :
    a' = (a.1, .refused) := by
  induction is generalizing r k k' with
  | nil => cases ha
  | cons i is ih =>
    obtain ⟨-, his⟩ := List.forall_mem_cons.1 his
    obtain ⟨k', rfl⟩ : ∃ n, k' = n + 1 := ⟨k' - 1, by omega⟩
    rw [commands, List.getElem?_cons_succ] at ha'
    cases k with
    | zero =>
      obtain rfl : command sig i r = a := Option.some.inj ha
      rw [commands_resting (command_resting_of_final hfinal) his] at ha'
      exact List.eq_of_mem_replicate (List.mem_of_getElem? ha')
    | succ k => exact ih his ha ha' (Nat.lt_of_succ_lt_succ hlt)

/-- The state after a command of a script holds the registers and the response the step function gives. -/
theorem commands_of_runScriptFrom {k : Nat} (hwf : ∀ i ∈ is, i.wellFormed = true)
    (ht : (runScriptFrom is s)[k]? = some t) :
    ∃ a, (commands s.sig is s.regs)[k]? = some a ∧ t.regs = a.1 ∧ t.rsp = some a.2 := by
  have hk := congrArg (·[k]?) (runScriptFrom_eq_commands is s hwf)
  simp only [List.getElem?_map, ht, Option.map_some] at hk
  obtain ⟨a, ha, heq⟩ := Option.map_eq_some_iff.1 hk.symm
  obtain ⟨hregs, hrsp⟩ := Prod.mk.inj heq
  exact ⟨a, ha, hregs.symm, hrsp.symm⟩

/-- Settles O33: `commands_after_final` on the states of the trace. -/
theorem nothingIsAcceptedAfterDoneOrErr : Obligations.NothingIsAcceptedAfterDoneOrErr := by
  intro is s his k k' t t' ht hfinal ht' hlt
  have hwf : ∀ i ∈ is, i.wellFormed = true := fun i hi => (his i hi).1
  obtain ⟨a, ha, hregs, hrsp⟩ := commands_of_runScriptFrom hwf ht
  obtain ⟨a', ha', hregs', hrsp'⟩ := commands_of_runScriptFrom hwf ht'
  obtain rfl := commands_after_final (fun i hi => (his i hi).2) ha (hrsp ▸ hfinal) ha' hlt
  exact ⟨hrsp', hregs'.trans hregs.symm⟩

/-! ### The outcome of a run -/

/-- A `PUSH` in an active phase goes on with the operation, or decides it and leaves a resting phase. -/
theorem PushCase.decides (h : PushCase sig b r a) (hp : r.phase.isActive = true) :
    (a.1.phase.isActive = true ∧ decides r.mode (some a.2) = none) ∨
      (a.1.phase.isActive = false ∧ ∃ o, decides r.mode (some a.2) = some o) := by
  cases h with
  | resting hrest => exact absurd (hrest.symm.trans hp) nofun
  | sigWrong | typeIllegal | typeTag | csumWrong => exact .inr ⟨rfl, _, rfl⟩
  | csumChunk _ _ _ hm => exact .inr ⟨rfl, _, if_pos hm⟩
  | csumCont _ _ _ hm => exact .inl ⟨rfl, if_neg hm⟩
  | stream | sigMore | lenMore | typeMore | payloadMore | csumMore => exact .inl ⟨hp, rfl⟩
  | sigLast | lenLast | typeEmpty | typePayload | payloadLast => exact .inl ⟨rfl, rfl⟩

/-- An `END` in an active phase decides the operation. -/
theorem EndCase.decides (h : EndCase r a) (hp : r.phase.isActive = true) (mode : Mode) :
    ∃ o, decides mode (some a.2) = some o := by
  cases h with
  | resting hrest => exact absurd (hrest.symm.trans hp) nofun
  | complete | inSignature | inField => exact ⟨_, rfl⟩

/-- Some answer decides, and no two decide differently. -/
def HasOneOutcome (mode : Mode) (as : List (Regs × Response)) : Prop :=
  ∃ o, as.findSome? (fun a => decides mode (some a.2)) = some o ∧
    ∀ a ∈ as, ∀ o', decides mode (some a.2) = some o' → o' = o

theorem HasOneOutcome.cons {as : List (Regs × Response)} (ha : decides mode (some a.2) = none)
    (h : HasOneOutcome mode as) : HasOneOutcome mode (a :: as) := by
  obtain ⟨o, hfirst, honly⟩ := h
  refine ⟨o, by rw [List.findSome?_cons, ha]; exact hfirst, List.forall_mem_cons.2 ⟨fun o' ho' => ?_, honly⟩⟩
  exact nomatch ha.symm.trans ho'

theorem hasOneOutcome_of_decided {o : Except ErrorKind Unit} (ha : decides mode (some a.2) = some o) (r : Regs) (n : Nat) :
    HasOneOutcome mode (a :: List.replicate n (r, .refused)) := by
  refine ⟨o, by rw [List.findSome?_cons, ha], List.forall_mem_cons.2 ⟨fun o' ho' => ?_, fun a' ha' o' ho' => ?_⟩⟩
  · exact Option.some.inj (ho'.symm.trans ha)
  · rw [List.eq_of_mem_replicate ha'] at ho'
    cases ho'

theorem isStart_of_mem_pushs {buf : List Byte} (h : i ∈ pushs buf) : isStart i = false := by
  obtain ⟨b, -, rfl⟩ := List.mem_map.1 h
  rfl

theorem isStart_of_mem_pushs_end {buf : List Byte} (h : i ∈ pushs buf ++ [.endBuffer]) : isStart i = false := by
  rcases List.mem_append.1 h with h | h
  · exact isStart_of_mem_pushs h
  · obtain rfl := List.mem_singleton.1 h
    rfl

/-- From an active phase bytes and `END` have one outcome: the bytes go on until one decides or `END` does. -/
theorem commands_hasOneOutcome (sig : Config.Signature) (buf : List Byte) (hp : r.phase.isActive = true)
    (hm : r.mode = mode) : HasOneOutcome mode (commands sig (pushs buf ++ [.endBuffer]) r) := by
  induction buf generalizing r with
  | nil =>
    obtain ⟨o, ho⟩ := (end_case r).decides hp mode
    exact hasOneOutcome_of_decided ho r 0
  | cons b buf ih =>
    have hcase := push_case sig b r
    rcases hm ▸ hcase.decides hp with ⟨hactive, hnone⟩ | ⟨hrest, o, ho⟩
    · exact (ih hactive (hcase.mode_eq.trans hm)).cons hnone
    · have htail := commands_resting (sig := sig) (is := pushs buf ++ [.endBuffer]) hrest fun _ =>
        isStart_of_mem_pushs_end
      change HasOneOutcome mode (push sig b r :: commands sig (pushs buf ++ [.endBuffer]) (push sig b r).1)
      rw [htail]
      exact hasOneOutcome_of_decided ho _ _

/-- Every `START` opens an active phase of its mode, with no event. -/
theorem command_start_opens (sig : Config.Signature) (m : Mode) (r : Regs) :
    (command sig m.start r).1.phase.isActive = true ∧ (command sig m.start r).1.mode = m ∧
      (command sig m.start r).2 = .ack .none := by
  cases m <;> exact ⟨rfl, rfl, rfl⟩

/-- The commands of a run have one outcome, whatever the registers before it. -/
theorem commands_runScript_hasOneOutcome (sig : Config.Signature) (m : Mode) (buf : List Byte) (r : Regs) :
    HasOneOutcome m (commands sig (runScript m buf) r) := by
  obtain ⟨hactive, hmode, hrsp⟩ := command_start_opens sig m r
  exact (commands_hasOneOutcome sig buf hactive hmode).cons (by rw [hrsp]; rfl)

/-- Settles O35: the answers of a run are those of its commands (`commands_runScript_hasOneOutcome`). -/
theorem everyRunHasExactlyOneOutcome : Obligations.EveryRunHasExactlyOneOutcome := by
  intro mode buf s
  obtain ⟨o, hfirst, honly⟩ := commands_runScript_hasOneOutcome s.sig mode buf s.regs
  have htrace := runScriptFrom_eq_commands (runScript mode buf) s (runScript_wellFormed mode buf)
  refine ⟨o, ?_, fun t ht o' ho' => ?_⟩
  · have houtcome := congrArg (List.findSome? fun p => decides mode p.2) htrace
    rw [List.findSome?_map, List.findSome?_map] at houtcome
    exact houtcome.trans hfirst
  · obtain ⟨k, hk⟩ := List.mem_iff_getElem?.1 ht
    obtain ⟨a, ha, -, hrsp⟩ := commands_of_runScriptFrom (runScript_wellFormed mode buf) hk
    exact honly a (List.mem_of_getElem? ha) o' (hrsp ▸ ho')

end Sys2Proof.Machine

/-! PROOFS. Fields and records on the machine: how the bytes of a field, of a chunk record and of a signature lead from one
set of registers to the next (43_chunk_framer R131 to R139, 44_container R160, R161). -/

namespace Sys2Proof.Machine

variable {sig : Config.Signature} {i : Instr} {is js : List Instr} {b : Byte} {bs : List Byte} {r r' r₁ : Regs}
  {p : Response} {ps qs : List Response} {n : Nat} {e : ErrorKind}

/-! ### Commands that lead from registers to registers -/

/-- The commands `is` lead from `r` to `r'` and are answered by `ps`; `Leads.commands_rsp` and `Leads.commands_getLast?`
tie it to the step function. -/
inductive Leads (sig : Config.Signature) : Regs → List Instr → List Response → Regs → Prop where
  | nil (r : Regs) : Leads sig r [] [] r
  | cons {r r₁ r' : Regs} {i : Instr} {is : List Instr} {p : Response} {ps : List Response}
      (hi : command sig i r = (r₁, p)) (his : Leads sig r₁ is ps r') : Leads sig r (i :: is) (p :: ps) r'

theorem Leads.commands_rsp (h : Leads sig r is ps r') : (commands sig is r).map Prod.snd = ps := by
  induction h with
  | nil => rfl
  | cons hi _ ih => rw [commands, List.map_cons, hi, ih]

theorem Leads.append (h : Leads sig r is ps r₁) (h' : Leads sig r₁ js qs r') :
    Leads sig r (is ++ js) (ps ++ qs) r' := by
  induction h with
  | nil => exact h'
  | cons hi _ ih => exact .cons hi (ih h')

theorem Leads.push (h : PushCase sig b r (r₁, p)) (his : Leads sig r₁ is ps r') :
    Leads sig r (.push b :: is) (p :: ps) r' :=
  .cons h.push_eq his

theorem leads_resting (hp : r.phase.isActive = false) (his : ∀ i ∈ is, isStart i = false) :
    Leads sig r is (List.replicate is.length .refused) r := by
  induction is with
  | nil => exact .nil r
  | cons i is ih =>
    obtain ⟨hi, his⟩ := List.forall_mem_cons.1 his
    exact .cons (command_resting hp hi) (ih his)

theorem pushs_append (m m' : List Byte) : pushs (m ++ m') = pushs m ++ pushs m' := List.map_append

/-- `n` accepted commands without an event. -/
def quiet (n : Nat) : List Response := List.replicate n (.ack .none)

/-- A response that neither decides an operation nor ends a record. -/
def Response.Provisional (p : Response) : Prop := p = .ack .none ∨ ∃ b, p = .ack (.payload b)

theorem provisional_of_mem_quiet (h : p ∈ quiet n) : p.Provisional := .inl (List.eq_of_mem_replicate h)

theorem provisional_of_mem_payload (h : p ∈ bs.map fun b => Response.ack (.payload b)) : p.Provisional := by
  obtain ⟨b, -, rfl⟩ := List.mem_map.1 h
  exact .inr ⟨b, rfl⟩

/-! ### Bytes inside a field -/

/-- The phase is a field of a record (43_chunk_framer R131 to R137). -/
def Phase.IsField (p : Phase) : Prop := p = .len ∨ p = .type ∨ p = .payload ∨ p = .csum

/-- The registers after a byte that is not the last of its field; a phase that is no field keeps them. -/
def Regs.midByte (r : Regs) (b : Byte) : Regs :=
  match r.phase with
  | .len => { r with len := shiftIn r.len b, cnt := r.cnt - 1 }
  | .type => r.afterTypeByte b
  | .payload => { r with crc := crcStep r.crc b, cnt := r.cnt - 1 }
  | .csum => { r with csum := shiftIn r.csum b, cnt := r.cnt - 1 }
  | .idle | .sig | .stream | .done | .err => r

/-- The answer to a byte that is not the last of its field: a payload byte is passed through. -/
def Phase.midResponse (p : Phase) (b : Byte) : Response := if p = .payload then .ack (.payload b) else .ack .none

section
variable (b)

theorem Regs.midByte_len (hp : r.phase = .len) : r.midByte b = { r with len := shiftIn r.len b, cnt := r.cnt - 1 } := by
  cases r; cases hp; rfl

theorem Regs.midByte_type (hp : r.phase = .type) : r.midByte b = r.afterTypeByte b := by
  cases r; cases hp; rfl

theorem Regs.midByte_payload (hp : r.phase = .payload) :
    r.midByte b = { r with crc := crcStep r.crc b, cnt := r.cnt - 1 } := by
  cases r; cases hp; rfl

theorem Regs.midByte_csum (hp : r.phase = .csum) :
    r.midByte b = { r with csum := shiftIn r.csum b, cnt := r.cnt - 1 } := by
  cases r; cases hp; rfl

theorem Phase.midResponse_eq {p p' : Phase} (h : p = p') : p.midResponse b = p'.midResponse b := h ▸ rfl

theorem push_mid (sig : Config.Signature) (hf : r.phase.IsField) (hc : r.cnt - 1 ≠ 0) :
    push sig b r = (r.midByte b, r.phase.midResponse b) := by
  rcases hf with hp | hp | hp | hp
  · rw [push_lenMore hp hc, r.midByte_len b hp, Phase.midResponse_eq b hp]; rfl
  · rw [push_typeMore hp hc, r.midByte_type b hp, Phase.midResponse_eq b hp]; rfl
  · rw [push_payloadMore hp hc, r.midByte_payload b hp, Phase.midResponse_eq b hp]; rfl
  · rw [push_csumMore hp hc, r.midByte_csum b hp, Phase.midResponse_eq b hp]; rfl

/-- A byte inside a field keeps phase and mode and counts down. -/
theorem Regs.midByte_keeps (hf : r.phase.IsField) :
    (r.midByte b).phase = r.phase ∧ (r.midByte b).mode = r.mode ∧ (r.midByte b).cnt = r.cnt - 1 := by
  rcases hf with hp | hp | hp | hp
  · rw [r.midByte_len b hp]; exact ⟨rfl, rfl, rfl⟩
  · rw [r.midByte_type b hp]; exact ⟨rfl, rfl, rfl⟩
  · rw [r.midByte_payload b hp]; exact ⟨rfl, rfl, rfl⟩
  · rw [r.midByte_csum b hp]; exact ⟨rfl, rfl, rfl⟩

end

theorem Phase.provisional_midResponse (ph : Phase) (b : Byte) : (ph.midResponse b).Provisional := by
  unfold Phase.midResponse
  split_ifs
  · exact .inr ⟨b, rfl⟩
  · exact .inl rfl

/-- Fewer bytes than the field has left stay in the field. -/
theorem leads_mid (hf : r.phase.IsField) (hlen : bs.length < r.cnt.toNat) :
    Leads sig r (pushs bs) (bs.map r.phase.midResponse) (bs.foldl Regs.midByte r) ∧
      (bs.foldl Regs.midByte r).phase = r.phase ∧ (bs.foldl Regs.midByte r).mode = r.mode ∧
      (bs.foldl Regs.midByte r).cnt.toNat = r.cnt.toNat - bs.length := by
  induction bs generalizing r with
  | nil => exact ⟨.nil r, rfl, rfl, rfl⟩
  | cons b bs ih =>
    rw [List.length_cons] at hlen
    obtain ⟨hphase, hmode, hcnt⟩ := Regs.midByte_keeps b hf
    have hcount : (r.midByte b).cnt.toNat = r.cnt.toNat - 1 := by rw [hcnt, cnt_pred_toNat _ (by omega)]
    obtain ⟨hleads, hphase', hmode', hcount'⟩ := ih (r := r.midByte b) (hphase ▸ hf) (by omega)
    rw [hphase] at hleads hphase'
    rw [hmode] at hmode'
    refine ⟨.cons (push_mid b sig hf (pred_ne_zero_of_one_lt (by omega))) hleads, hphase', hmode', ?_⟩
    rw [List.foldl_cons, hcount', List.length_cons]
    omega

/-! ### Fields of four bytes -/

/-- A field of four bytes is three inside it, which lead to `r₁`, and the last. -/
theorem leads_field {b₀ b₁ b₂ b₃ : Byte} (hf : r.phase.IsField) (hp : r.phase ≠ .payload) (hc : r.cnt = 4)
    (hhead : [b₀, b₁, b₂].foldl Regs.midByte r = r₁) (h : PushCase sig b₃ r₁ (r', p)) :
    Leads sig r (pushs [b₀, b₁, b₂, b₃]) (quiet 3 ++ [p]) r' := by
  have hlen : [b₀, b₁, b₂].length < r.cnt.toNat := by rw [hc]; exact Nat.lt_add_one 3
  have hquiet : [b₀, b₁, b₂].map r.phase.midResponse = quiet 3 := by simp [Phase.midResponse, hp, quiet]
  obtain ⟨hleads, -⟩ := leads_mid (sig := sig) hf hlen
  rw [hquiet, hhead] at hleads
  exact hleads.append (.push h (.nil _))

/-- Four bytes shifted in are the field's value, whatever it held (30_encoding R53). -/
theorem shiftIn_be32 (reg v : Word) :
    shiftIn (shiftIn (shiftIn (shiftIn reg (v.extractLsb' 24 8)) (v.extractLsb' 16 8)) (v.extractLsb' 8 8))
      (v.extractLsb' 0 8) = v := by
  rw [shiftIn_four, unbe32_be32]

theorem midBytes_len (hp : r.phase = .len) (b₀ b₁ b₂ : Byte) :
    [b₀, b₁, b₂].foldl Regs.midByte r =
      { r with len := shiftIn (shiftIn (shiftIn r.len b₀) b₁) b₂, cnt := r.cnt - 1 - 1 - 1 } := by
  cases r; cases hp; rfl

theorem midBytes_type (hp : r.phase = .type) (b₀ b₁ b₂ : Byte) :
    [b₀, b₁, b₂].foldl Regs.midByte r = ((r.afterTypeByte b₀).afterTypeByte b₁).afterTypeByte b₂ := by
  cases r; cases hp; rfl

theorem midBytes_csum (hp : r.phase = .csum) (b₀ b₁ b₂ : Byte) :
    [b₀, b₁, b₂].foldl Regs.midByte r =
      { r with csum := shiftIn (shiftIn (shiftIn r.csum b₀) b₁) b₂, cnt := r.cnt - 1 - 1 - 1 } := by
  cases r; cases hp; rfl

/-- A counter of four has one byte to go after three. -/
theorem count_after_three {c : Word} (hc : c = 4) : c - 1 - 1 - 1 - 1 = 0 := by subst hc; decide

/-- The registers after the length field of a record. -/
def Regs.afterLength (r : Regs) (l : Word) : Regs :=
  { r with len := l, phase := .type, cnt := 4, crc := Config.crcInit }

/-- The length field (43_chunk_framer R131). -/
theorem leads_len (hp : r.phase = .len) (hc : r.cnt = 4) (l : Word) :
    Leads sig r (pushs (be32 l)) (quiet 4) (r.afterLength l) := by
  have hfield := leads_field (sig := sig) (.inl hp) (by simp [hp]) hc
    (midBytes_len hp (l.extractLsb' 24 8) (l.extractLsb' 16 8) (l.extractLsb' 8 8))
    (.lenLast (b := l.extractLsb' 0 8) hp (count_after_three hc))
  rwa [shiftIn_be32] at hfield

/-- The registers with a whole tag shifted in and its facets written (42_typetag R113, R114). -/
def Regs.withTag (r : Regs) (t : TypeTag) : Regs :=
  { r with type := t.toWord, crc := crcAbsorb r.crc t.bytes, cnt := 0, facets := t.facets }

/-- The registers with the first three bytes of a tag shifted in. -/
def Regs.tagHead (r : Regs) (t : TypeTag) : Regs :=
  ((r.afterTypeByte t.t0).afterTypeByte t.t1).afterTypeByte t.t2

theorem Regs.type_tagHead (r : Regs) (t : TypeTag) : shiftIn (r.tagHead t).type t.t3 = t.toWord :=
  shiftIn_four r.type t.t0 t.t1 t.t2 t.t3

theorem Regs.tagAfter_tagHead (r : Regs) (t : TypeTag) : (r.tagHead t).tagAfter t.t3 = t := by
  rw [Regs.tagAfter, Regs.type_tagHead, TypeTag.ofWord_toWord]

theorem Regs.withTag_eq (hc : r.cnt = 4) (t : TypeTag) :
    r.withTag t = { (r.tagHead t).afterTypeByte t.t3 with facets := ((r.tagHead t).tagAfter t.t3).facets } := by
  have hcnt : (r.tagHead t).cnt - 1 = 0 := count_after_three hc
  rw [Regs.tagAfter_tagHead, Regs.afterTypeByte, Regs.type_tagHead, hcnt]
  rfl

/-- The type field up to its last byte (42_typetag R114). -/
theorem leads_type (hp : r.phase = .type) (hc : r.cnt = 4) {t : TypeTag}
    (h : PushCase sig t.t3 (r.tagHead t) (r', p)) : Leads sig r (pushs t.bytes) (quiet 3 ++ [p]) r' :=
  leads_field (.inr (.inl hp)) (by simp [hp]) hc (midBytes_type hp t.t0 t.t1 t.t2) h

theorem leads_type_illegal (hp : r.phase = .type) (hc : r.cnt = 4) {t : TypeTag} (ht : tagCheck t = .error e) :
    Leads sig r (pushs t.bytes) (quiet 3 ++ [.ack (.err e)]) { r.withTag t with err := e.toErr, phase := .err } := by
  rw [Regs.withTag_eq hc]
  exact leads_type hp hc (.typeIllegal e hp (count_after_three hc) (by rwa [Regs.tagAfter_tagHead]))

theorem leads_type_done (hp : r.phase = .type) (hc : r.cnt = 4) (hm : r.mode = .tag) {t : TypeTag}
    (ht : tagCheck t = .ok ()) :
    Leads sig r (pushs t.bytes) (quiet 3 ++ [.ack .done]) { r.withTag t with phase := .done } := by
  rw [Regs.withTag_eq hc]
  exact leads_type hp hc (.typeTag hp (count_after_three hc) (by rwa [Regs.tagAfter_tagHead]) hm)

/-- The type field of a record without payload (43_chunk_framer R133). -/
theorem leads_type_empty (hp : r.phase = .type) (hc : r.cnt = 4) (hm : r.mode ≠ .tag) (hl : r.len = 0) {t : TypeTag}
    (ht : tagCheck t = .ok ()) :
    Leads sig r (pushs t.bytes) (quiet 4) { r.withTag t with phase := .csum, cnt := 4 } := by
  rw [Regs.withTag_eq hc]
  exact leads_type hp hc (.typeEmpty hp (count_after_three hc) (by rwa [Regs.tagAfter_tagHead]) hm hl)

/-- The type field of a record with payload (43_chunk_framer R133). -/
theorem leads_type_payload (hp : r.phase = .type) (hc : r.cnt = 4) (hm : r.mode ≠ .tag) (hl : r.len ≠ 0) {t : TypeTag}
    (ht : tagCheck t = .ok ()) :
    Leads sig r (pushs t.bytes) (quiet 4) { r.withTag t with phase := .payload, cnt := r.len } := by
  rw [Regs.withTag_eq hc]
  exact leads_type hp hc (.typePayload hp (count_after_three hc) (by rwa [Regs.tagAfter_tagHead]) hm hl)

/-- The payload, passed through byte by byte (43_chunk_framer R134). -/
theorem leads_payload (hp : r.phase = .payload) (hlen : bs.length = r.cnt.toNat) (hne : bs ≠ []) :
    Leads sig r (pushs bs) (bs.map fun b => .ack (.payload b))
      { r with crc := crcAbsorb r.crc bs, phase := .csum, cnt := 4 } := by
  induction bs generalizing r with
  | nil => exact absurd rfl hne
  | cons b bs ih =>
    rw [List.length_cons] at hlen
    rcases eq_or_ne bs [] with rfl | hbs
    · exact .push (.payloadLast hp ((cnt_pred_eq_zero_iff _).2 hlen.symm)) (.nil _)
    · have hpos := List.length_pos_of_ne_nil hbs
      have hpred : bs.length = (r.cnt - 1).toNat := by rw [cnt_pred_toNat _ (by omega)]; omega
      exact .push (.payloadMore hp (pred_ne_zero_of_one_lt (by omega))) (ih hp hpred hbs)

/-- Type and payload of a record whose tag is legal, up to its checksum field. -/
theorem leads_body (hp : r.phase = .type) (hc : r.cnt = 4) (hm : r.mode ≠ .tag) {t : TypeTag}
    (ht : tagCheck t = .ok ()) (hlen : bs.length = r.len.toNat) :
    Leads sig r (pushs (t.bytes ++ bs)) (quiet 4 ++ bs.map fun b => .ack (.payload b))
      { r.withTag t with crc := crcAbsorb r.crc (t.bytes ++ bs), phase := .csum, cnt := 4 } := by
  rw [pushs_append]
  by_cases hl : r.len = 0
  · obtain rfl : bs = [] := List.eq_nil_of_length_eq_zero (by simpa [hl] using hlen)
    exact (leads_type_empty hp hc hm hl ht).append (.nil _)
  · have hne : bs ≠ [] := by
      rintro rfl
      exact hl (BitVec.eq_of_toNat_eq hlen.symm)
    rw [crcAbsorb, List.foldl_append]
    exact (leads_type_payload hp hc hm hl ht).append (leads_payload rfl hlen hne)

/-- The registers after a checksum field that agrees: a record of a container is followed by the next, in `CHUNK` mode by
none (43_chunk_framer R137). -/
def Regs.afterChecksum (r : Regs) (s : Word) : Regs :=
  if r.mode = .chunk then { r with csum := s, cnt := 0, phase := .done }
  else { r with csum := s, phase := .len, cnt := 4 }

theorem pushCase_checksum_match {s : Word} (hp : r.phase = .csum) (hc : r.cnt - 1 = 0) (hs : shiftIn r.csum b = s)
    (heq : s = crcOut r.crc) : PushCase sig b r (r.afterChecksum s, .ack .chunk) := by
  subst hs
  rw [Regs.afterChecksum]
  split_ifs with hm
  · exact hc ▸ .csumChunk hp hc heq hm
  · exact .csumCont hp hc heq hm

/-- The registers after a checksum field that does not agree (43_chunk_framer R137). -/
def Regs.afterWrongChecksum (r : Regs) (s : Word) : Regs :=
  { r with csum := s, cnt := 0, err := .checksumError, phase := .err }

theorem pushCase_checksum_wrong {s : Word} (hp : r.phase = .csum) (hc : r.cnt - 1 = 0) (hs : shiftIn r.csum b = s)
    (hne : s ≠ crcOut r.crc) : PushCase sig b r (r.afterWrongChecksum s, .ack (.err .checksumError)) := by
  subst hs
  unfold Regs.afterWrongChecksum
  exact hc ▸ .csumWrong hp hc hne

/-- The checksum field of a record that agrees (43_chunk_framer R136, R137). -/
theorem leads_checksum_match (hp : r.phase = .csum) (hc : r.cnt = 4) {s : Word} (heq : s = crcOut r.crc) :
    Leads sig r (pushs (be32 s)) (quiet 3 ++ [.ack .chunk]) (r.afterChecksum s) :=
  leads_field (.inr (.inr (.inr hp))) (by simp [hp]) hc (midBytes_csum hp _ _ _)
    (pushCase_checksum_match hp (count_after_three hc) (shiftIn_be32 r.csum s) heq)

theorem leads_checksum_wrong (hp : r.phase = .csum) (hc : r.cnt = 4) {s : Word} (hne : s ≠ crcOut r.crc) :
    Leads sig r (pushs (be32 s)) (quiet 3 ++ [.ack (.err .checksumError)]) (r.afterWrongChecksum s) :=
  leads_field (.inr (.inr (.inr hp))) (by simp [hp]) hc (midBytes_csum hp _ _ _)
    (pushCase_checksum_wrong hp (count_after_three hc) (shiftIn_be32 r.csum s) hne)

/-! ### A record -/

/-- The block waits for the first byte of a record. -/
structure Regs.AtRecord (r : Regs) : Prop where
  phase : r.phase = .len
  cnt : r.cnt = 4
  mode : r.mode.ReadsRecords

theorem Regs.AtRecord.isField (h : r.AtRecord) : r.phase.IsField := .inl h.phase

theorem Mode.ReadsRecords.ne_tag {m : Mode} (h : m.ReadsRecords) : m ≠ .tag := by
  rcases h with rfl | rfl <;> decide

/-- The registers before the checksum field of a record with this length, type and payload. -/
def Regs.beforeChecksum (r : Regs) (l : Word) (t : TypeTag) (m : List Byte) : Regs :=
  { r with len := l, type := t.toWord, crc := crcAbsorb Config.crcInit (t.bytes ++ m), facets := t.facets,
           phase := .csum, cnt := 4 }

/-- The answers to the bytes of a record up to its checksum field: the payload is passed through. -/
def bodyResponses (m : List Byte) : List Response := quiet 8 ++ m.map fun b => .ack (.payload b)

theorem leads_to_checksum (hr : r.AtRecord) {l : Word} {t : TypeTag} {m : List Byte} (ht : tagCheck t = .ok ())
    (hm : m.length = l.toNat) :
    Leads sig r (pushs (be32 l ++ (t.bytes ++ m))) (bodyResponses m) (r.beforeChecksum l t m) := by
  have hopen : bodyResponses m = quiet 4 ++ (quiet 4 ++ m.map fun b => .ack (.payload b)) := rfl
  rw [pushs_append, hopen]
  exact (leads_len hr.phase hr.cnt l).append (leads_body (r := r.afterLength l) rfl rfl hr.mode.ne_tag ht hm)

/-- The registers after the record of a chunk. -/
def Regs.afterRecord (r : Regs) (c : Chunk) : Regs :=
  (r.beforeChecksum c.length c.type c.payload).afterChecksum c.checksum

/-- The record of a legal chunk ends in the event `CHUNK`, its payload passed through on the way. -/
theorem leads_record (hr : r.AtRecord) {c : Chunk} (hc : c.consistent) (hl : c.legalType) :
    Leads sig r (pushs (encodeChunk c)) (bodyResponses c.payload ++ (quiet 3 ++ [.ack .chunk])) (r.afterRecord c) := by
  obtain ⟨hlen, hsum⟩ := hc
  rw [encodeChunk, pushs_append, List.append_assoc]
  exact (leads_to_checksum hr hl hlen.symm).append (leads_checksum_match rfl rfl hsum)

/-- The status port and the payload events of a record are its chunk (43_chunk_framer R138). -/
theorem Regs.chunkAt_afterRecord (r : Regs) (c : Chunk) : chunkAt (r.afterRecord c) c.payload = c := by
  have htag : TypeTag.ofWord (r.afterRecord c).type = c.type := by
    rw [← c.type.ofWord_toWord, Regs.afterRecord, Regs.afterChecksum]
    split_ifs <;> rfl
  rw [chunkAt, htag, Regs.afterRecord, Regs.afterChecksum]
  split_ifs <;> rfl

theorem Regs.atRecord_afterRecord (hm : r.mode = .cont) (c : Chunk) :
    (r.afterRecord c).AtRecord ∧ (r.afterRecord c).mode = .cont := by
  have hne : (r.beforeChecksum c.length c.type c.payload).mode ≠ .chunk := by
    rw [Regs.beforeChecksum, hm]
    decide
  rw [Regs.afterRecord, Regs.afterChecksum, if_neg hne]
  exact ⟨⟨rfl, rfl, .inr hm⟩, hm⟩

/-! ### Commands that fail -/

/-- The commands end in the error `e` at the command of index `n`; before it there were only provisional answers, after it
everything is refused. -/
def FailsAt (sig : Config.Signature) (e : ErrorKind) (n : Nat) (is : List Instr) (r : Regs) : Prop :=
  ∃ ps k r', ps.length = n ∧ (∀ p ∈ ps, p.Provisional) ∧
    Leads sig r is (ps ++ .ack (.err e) :: List.replicate k .refused) r'

theorem Leads.failsAt_append {m : Nat} (h : Leads sig r is ps r₁) (hps : ∀ p ∈ ps, p.Provisional)
    (hf : FailsAt sig e n js r₁) (hm : m = ps.length + n) : FailsAt sig e m (is ++ js) r := by
  obtain ⟨qs, k, r', hlen, hqs, hleads⟩ := hf
  refine ⟨ps ++ qs, k, r', by simp [hm, hlen], fun p hp => ?_, ?_⟩
  · exact (List.mem_append.1 hp).elim (hps p) (hqs p)
  · rw [List.append_assoc]
    exact h.append hleads

/-- After a raised error the rest of the bytes and `END` are refused. -/
theorem Leads.failsAt {m : List Byte} (h : Leads sig r is (ps ++ [.ack (.err e)]) r₁) (hps : ∀ p ∈ ps, p.Provisional)
    (herr : r₁.phase = .err) : FailsAt sig e ps.length (is ++ (pushs m ++ [.endBuffer])) r := by
  have hrest : Leads sig r₁ (pushs m ++ [.endBuffer]) _ r₁ :=
    leads_resting (by rw [herr]; rfl) fun _ => isStart_of_mem_pushs_end
  have hall := h.append hrest
  rw [List.append_assoc] at hall
  exact ⟨ps, _, r₁, rfl, hps, hall⟩

theorem EndCase.failsAt (h : EndCase r (r₁, .ack (.err e))) : FailsAt sig e 0 [.endBuffer] r :=
  ⟨[], 0, r₁, rfl, nofun, .cons h.endBuffer_eq (.nil _)⟩

/-- `END` inside a field, and in `CHUNK` mode before a record too, is a framing error (43_chunk_framer R139). -/
theorem failsAt_cut (hf : r.phase.IsField) (hlen : bs.length < r.cnt.toNat)
    (hcut : r.phase = .len → r.mode = .cont → r.cnt.toNat - bs.length ≠ 4) :
    FailsAt sig .framingError bs.length (pushs bs ++ [.endBuffer]) r := by
  obtain ⟨hleads, hphase, hmode, hcnt⟩ := leads_mid (sig := sig) hf hlen
  have hend : EndCase (bs.foldl Regs.midByte r)
      ({ bs.foldl Regs.midByte r with err := .framingError, phase := .err }, .ack (.err .framingError)) := by
    refine .inField ?_
    rw [hphase, hmode]
    rcases hf with hp | hp | hp | hp
    · refine .inl ⟨hp, fun ⟨hm, hfour⟩ => hcut hp hm ?_⟩
      rw [← hcnt, hfour]
      rfl
    · exact .inr (.inl hp)
    · exact .inr (.inr (.inl hp))
    · exact .inr (.inr (.inr hp))
  refine hleads.failsAt_append (fun p hp => ?_) hend.failsAt (by simp)
  obtain ⟨b, -, rfl⟩ := List.mem_map.1 hp
  exact Phase.provisional_midResponse _ b

/-! ### What `decode_chunk` does, said once -/

theorem exists_be32_append {m : List Byte} (h : 4 ≤ m.length) : ∃ v rest, m = be32 v ++ rest := by
  match m, h with
  | a :: b :: c :: d :: rest, _ => exact ⟨unbe32 a b c d, rest, by rw [be32_unbe32]; rfl⟩

theorem decodeChunk_of_short {buf : List Byte} (h : buf.length < 8) : decodeChunk buf = .error .framingError := by
  unfold decodeChunk
  split
  · simp only [List.length_cons] at h
    omega
  · rfl

theorem decodeChunk_eq_decodeBody (l : Word) (t : TypeTag) (m : List Byte) :
    decodeChunk (be32 l ++ (t.bytes ++ m)) = decodeBody l t m :=
  congrArg (decodeBody · t m) (unbe32_be32 l)

theorem decodeChecksum_of_short {l : Word} {t : TypeTag} {p m : List Byte} (h : m.length < 4) :
    decodeChecksum l t p m = .error .framingError := by
  unfold decodeChecksum
  split
  · simp only [List.length_cons] at h
    omega
  · rfl

theorem decodeChecksum_be32 (l : Word) (t : TypeTag) (p : List Byte) (s : Word) (m : List Byte) :
    decodeChecksum l t p (be32 s ++ m) =
      if s = crc32 (t.bytes ++ p) then .ok ({ length := l, type := t, payload := p, checksum := s }, m)
      else .error .checksumError := by
  simp only [be32, List.cons_append, List.nil_append, decodeChecksum, unbe32_be32]

/-- What `decode_chunk` makes of a buffer, by the first defect it meets (43_chunk_framer R126, R127). -/
inductive ChunkCase (buf : List Byte) : Except ErrorKind (Chunk × List Byte) → Prop where
  | shortLength (h : buf.length < 4) : ChunkCase buf (.error .framingError)
  | shortType (l : Word) (m : List Byte) (hbuf : buf = be32 l ++ m) (h : m.length < 4) :
      ChunkCase buf (.error .framingError)
  | illegalTag (l : Word) (t : TypeTag) (m : List Byte) (e : ErrorKind) (hbuf : buf = be32 l ++ (t.bytes ++ m))
      (ht : tagCheck t = .error e) : ChunkCase buf (.error e)
  | shortPayload (l : Word) (t : TypeTag) (m : List Byte) (hbuf : buf = be32 l ++ (t.bytes ++ m))
      (ht : tagCheck t = .ok ()) (h : m.length < l.toNat) : ChunkCase buf (.error .framingError)
  | shortChecksum (l : Word) (t : TypeTag) (p m : List Byte) (hbuf : buf = be32 l ++ (t.bytes ++ p) ++ m)
      (ht : tagCheck t = .ok ()) (hp : p.length = l.toNat) (h : m.length < 4) : ChunkCase buf (.error .framingError)
  | wrongChecksum (l : Word) (t : TypeTag) (p : List Byte) (s : Word) (m : List Byte)
      (hbuf : buf = be32 l ++ (t.bytes ++ p) ++ (be32 s ++ m)) (ht : tagCheck t = .ok ()) (hp : p.length = l.toNat)
      (hs : s ≠ crc32 (t.bytes ++ p)) : ChunkCase buf (.error .checksumError)
  | record (c : Chunk) (rest : List Byte) (hbuf : buf = encodeChunk c ++ rest) (hc : c.consistent)
      (hl : c.legalType) : ChunkCase buf (.ok (c, rest))

/-- The checksum field, after a legal type and a whole payload. -/
theorem chunk_case_checksum (l : Word) (t : TypeTag) (p m : List Byte) (ht : tagCheck t = .ok ())
    (hp : p.length = l.toNat) : ChunkCase (be32 l ++ (t.bytes ++ p) ++ m) (decodeChecksum l t p m) := by
  rcases Nat.lt_or_ge m.length 4 with hshort | hfour
  · rw [decodeChecksum_of_short hshort]
    exact .shortChecksum l t p m rfl ht hp hshort
  · obtain ⟨s, rest, rfl⟩ := exists_be32_append hfour
    rw [decodeChecksum_be32]
    split_ifs with hs
    · exact .record _ rest (by simp [encodeChunk]) ⟨hp.symm, hs⟩ ht
    · exact .wrongChecksum l t p s rest rfl ht hp hs

/-- Type, payload and checksum, after a whole length and type field. -/
theorem chunk_case_body (l : Word) (t : TypeTag) (m : List Byte) :
    ChunkCase (be32 l ++ (t.bytes ++ m)) (decodeBody l t m) := by
  unfold decodeBody
  split
  next e ht => exact .illegalTag l t m e rfl ht
  next ht =>
    split_ifs with hshort
    · exact .shortPayload l t m rfl ht hshort
    · have hcase := chunk_case_checksum l t (m.take l.toNat) (m.drop l.toNat) ht (by simp; omega)
      simpa only [List.append_assoc, List.take_append_drop] using hcase

/-- Every `decode_chunk` is one of the cases. -/
theorem chunk_case (buf : List Byte) : ChunkCase buf (decodeChunk buf) := by
  rcases Nat.lt_or_ge buf.length 4 with hshort | hfour
  · rw [decodeChunk_of_short (by omega)]
    exact .shortLength hshort
  · obtain ⟨l, m, rfl⟩ := exists_be32_append hfour
    rcases Nat.lt_or_ge m.length 4 with hshort | hfour
    · rw [decodeChunk_of_short (by rw [List.length_append, be32_length]; omega)]
      exact .shortType l m rfl hshort
    · obtain ⟨v, m, rfl⟩ := exists_be32_append hfour
      rw [← TypeTag.bytes_ofWord v, decodeChunk_eq_decodeBody]
      exact chunk_case_body l _ m

/-! ### A record that fails -/

/-- Where the error of a record arrives, counted from its first byte (43_chunk_framer R145). -/
def ErrorPosition (buf : List Byte) (e : ErrorKind) (n : Nat) : Prop :=
  (e = .reservedBitError ∨ e = .invalidByteError) ∧ n = 7 ∨
  e = .framingError ∧ n = buf.length ∨
  e = .checksumError ∧ ∃ l m, buf = be32 l ++ m ∧ n = 11 + l.toNat

theorem errorPosition_framing (buf : List Byte) : ErrorPosition buf .framingError buf.length := .inr (.inl ⟨rfl, rfl⟩)

@[simp] theorem quiet_length (n : Nat) : (quiet n).length = n := List.length_replicate

@[simp] theorem bodyResponses_length (m : List Byte) : (bodyResponses m).length = 8 + m.length := by
  simp [bodyResponses]

theorem provisional_of_mem_bodyResponses {m : List Byte} (h : p ∈ bodyResponses m) : p.Provisional :=
  (List.mem_append.1 h).elim provisional_of_mem_quiet provisional_of_mem_payload

/-- The machine fails on the bytes of a record where `decode_chunk` does, with the same error. An empty buffer is an error in
`CHUNK` mode only. -/
theorem record_failsAt {buf : List Byte} (hr : r.AtRecord) (hd : decodeChunk buf = .error e)
    (hbuf : r.mode = .cont → buf ≠ []) :
    ∃ n, ErrorPosition buf e n ∧ FailsAt sig e n (pushs buf ++ [.endBuffer]) r := by
  have hcase := chunk_case buf
  rw [hd] at hcase
  cases hcase with
  | shortLength h =>
    have hcnt : r.cnt.toNat = 4 := by rw [hr.cnt]; rfl
    refine ⟨_, errorPosition_framing buf, failsAt_cut hr.isField (by omega) fun _ hm => ?_⟩
    have := List.length_pos_of_ne_nil (hbuf hm)
    omega
  | shortType l m hbuf h =>
    subst hbuf
    refine ⟨_, errorPosition_framing _, ?_⟩
    rw [pushs_append, List.append_assoc]
    refine (leads_len hr.phase hr.cnt l).failsAt_append (fun _ => provisional_of_mem_quiet)
      (failsAt_cut (.inr (.inl rfl)) h nofun) (by simp)
  | illegalTag l t m _ hbuf ht =>
    subst hbuf
    have hkind := (tagCheck_error_iff t e).1 ht
    refine ⟨7, .inl ⟨hkind.imp And.left And.left, rfl⟩, ?_⟩
    simp only [pushs_append, List.append_assoc]
    exact (leads_len hr.phase hr.cnt l).failsAt_append (fun _ => provisional_of_mem_quiet)
      ((leads_type_illegal rfl rfl ht).failsAt (fun _ => provisional_of_mem_quiet) rfl) (by simp)
  | shortPayload l t m hbuf ht h =>
    subst hbuf
    have hne : l ≠ 0 := by rintro rfl; exact Nat.not_lt_zero _ h
    refine ⟨_, errorPosition_framing _, ?_⟩
    simp only [pushs_append, List.append_assoc]
    have hbody := (leads_type_payload (sig := sig) (r := r.afterLength l) rfl rfl hr.mode.ne_tag hne ht).failsAt_append
      (fun _ => provisional_of_mem_quiet) (failsAt_cut (.inr (.inr (.inl rfl))) h nofun) rfl
    exact (leads_len hr.phase hr.cnt l).failsAt_append (fun _ => provisional_of_mem_quiet) hbody (by simp)
  | shortChecksum l t p m hbuf ht hp h =>
    subst hbuf
    refine ⟨_, errorPosition_framing _, ?_⟩
    rw [pushs_append, List.append_assoc (pushs _)]
    have hcut : FailsAt sig .framingError m.length (pushs m ++ [.endBuffer]) (r.beforeChecksum l t p) :=
      failsAt_cut (.inr (.inr (.inr rfl))) h nofun
    exact (leads_to_checksum hr ht hp).failsAt_append (fun _ => provisional_of_mem_bodyResponses) hcut (by simp; omega)
  | wrongChecksum l t p s m hbuf ht hp hs =>
    subst hbuf
    refine ⟨11 + l.toNat, .inr (.inr ⟨rfl, l, _, List.append_assoc _ _ _, rfl⟩), ?_⟩
    rw [pushs_append, List.append_assoc, pushs_append, List.append_assoc]
    exact (leads_to_checksum hr ht hp).failsAt_append (fun _ => provisional_of_mem_bodyResponses)
      ((leads_checksum_wrong rfl rfl hs).failsAt (fun _ => provisional_of_mem_quiet) rfl) (by simp; omega)

/-- `END` before a record completes a container (44_container R166). -/
theorem leads_end_boundary (hp : r.phase = .len) (hm : r.mode = .cont) (hc : r.cnt = 4) :
    Leads sig r [.endBuffer] [.ack .done] { r with phase := .done } :=
  .cons (EndCase.complete (.inr ⟨hp, hm, hc⟩)).endBuffer_eq (.nil _)

/-! ### The signature of a container -/

/-- The block waits for the bytes `xs`, the last ones of the signature (44_container R160). -/
structure Regs.AwaitsSignature (sig : Config.Signature) (r : Regs) (xs : List Byte) : Prop where
  phase : r.phase = .sig
  cnt : r.cnt.toNat = xs.length
  suffix : xs <:+ sig.toList

/-- The byte compared is the first one awaited. -/
theorem Regs.AwaitsSignature.expected {x : Byte} (h : r.AwaitsSignature sig (x :: bs)) :
    expectedSigByte sig r.cnt = some x := by
  obtain ⟨-, hcnt, front, hfront⟩ := h
  have hlen := congrArg List.length hfront
  rw [List.length_append, Vector.length_toList] at hlen
  rw [List.length_cons] at hcnt hlen
  rw [expectedSigByte_eq sig r.cnt (by omega) (by omega), ← Vector.getElem?_toList, ← hfront,
    show 8 - r.cnt.toNat = front.length by omega]
  simp

/-- Bytes that match lead on to the rest of the signature. -/
theorem leads_signature_part {x : Byte} {xs : List Byte} (h : r.AwaitsSignature sig (bs ++ x :: xs)) :
    ∃ c, Leads sig r (pushs bs) (quiet bs.length) { r with cnt := c } ∧
      Regs.AwaitsSignature sig { r with cnt := c } (x :: xs) := by
  induction bs generalizing r with
  | nil => exact ⟨r.cnt, .nil r, h⟩
  | cons b bs ih =>
    have hexpected := h.expected
    obtain ⟨hphase, hcnt, hsuffix⟩ := h
    simp only [List.cons_append, List.length_cons, List.length_append] at hcnt
    have hnext : Regs.AwaitsSignature sig { r with cnt := r.cnt - 1 } (bs ++ x :: xs) := by
      refine ⟨hphase, ?_, (List.suffix_cons b _).trans hsuffix⟩
      rw [cnt_pred_toNat _ (by omega), List.length_append, List.length_cons]
      omega
    obtain ⟨c, hleads, hawaits⟩ := ih hnext
    exact ⟨c, .push (.sigMore hphase hexpected (pred_ne_zero_of_one_lt (by omega))) hleads, hawaits⟩

/-- The whole signature opens the first record. -/
theorem leads_signature (hp : r.phase = .sig) (hc : r.cnt = 8) :
    Leads sig r (pushs sig.toList) (quiet 8) { r with phase := .len, cnt := 4 } := by
  have hlen : sig.toList.length = 8 := sig.length_toList
  obtain ⟨init, x, hsplit⟩ := List.eq_nil_or_concat' sig.toList |>.resolve_left (by rintro h; simp [h] at hlen)
  have hinit : init.length = 7 := by simpa [hsplit] using hlen
  have hawaits : r.AwaitsSignature sig (init ++ x :: []) := ⟨hp, by simp [hc, hinit], hsplit ▸ List.suffix_rfl⟩
  obtain ⟨c, hleads, hlast⟩ := leads_signature_part hawaits
  have hone : c - 1 = 0 := (cnt_pred_eq_zero_iff c).2 hlast.cnt
  rw [hinit] at hleads
  rw [hsplit, pushs_append]
  exact hleads.append (.push (.sigLast hp hlast.expected hone) (.nil _))

/-- At the first byte that differs, or at `END` when the buffer ends before, the container has no signature
(44_container R161). -/
theorem signature_failsAt {x : Byte} {xs tail : List Byte} (h : r.AwaitsSignature sig (bs ++ x :: xs))
    (htail : tail.head? ≠ some x) :
    FailsAt sig .signatureError bs.length (pushs (bs ++ tail) ++ [.endBuffer]) r := by
  obtain ⟨c, hleads, hawaits⟩ := leads_signature_part h
  rw [pushs_append, List.append_assoc]
  refine hleads.failsAt_append (n := 0) (fun _ => provisional_of_mem_quiet) ?_ (by simp)
  cases tail with
  | nil => exact (EndCase.inSignature hawaits.phase).failsAt
  | cons y ys =>
    have hne : expectedSigByte sig c ≠ some y := by
      rw [hawaits.expected]
      exact fun heq => htail heq.symm
    exact Leads.failsAt (ps := []) (.push (.sigWrong hawaits.phase hne) (.nil _)) nofun rfl

/-- Unless one list begins with the other, there is a first place where they differ. -/
theorem exists_first_difference {xs ys : List Byte} (h : ¬ xs <+: ys) :
    ∃ front x rest tail, xs = front ++ x :: rest ∧ ys = front ++ tail ∧ tail.head? ≠ some x := by
  induction xs generalizing ys with
  | nil => exact absurd List.nil_prefix h
  | cons x xs ih =>
    by_cases hhead : ys.head? = some x
    · obtain ⟨ys, rfl⟩ := List.head?_eq_some_iff.1 hhead
      obtain ⟨front, y, rest, tail, rfl, rfl, hne⟩ := ih fun hpre => h (List.cons_prefix_cons.2 ⟨rfl, hpre⟩)
      exact ⟨x :: front, y, rest, tail, rfl, rfl, hne⟩
    · exact ⟨[], x, xs, ys, rfl, rfl, hhead⟩

end Sys2Proof.Machine

/-! PROOFS. The four `START` commands (40_commands R72 to R75). -/

namespace Sys2Proof.Machine

variable {sig : Config.Signature} {is : List Instr} {r r' : Regs} {p : Response} {ps : List Response} {s : State}

/-! ### The last state of a script -/

theorem Leads.commands_getLast? (h : Leads sig r is ps r') (hp : ps.getLast? = some p) :
    (commands sig is r).getLast? = some (r', p) := by
  induction h with
  | nil => cases hp
  | cons hi his ih =>
    rw [commands, hi]
    cases his with
    | nil => exact congrArg some (Prod.ext rfl (Option.some.inj hp))
    | cons => exact ih hp

/-- The state after a script holds the registers it leads to and its last response. -/
theorem Leads.exists_last_state (hwf : ∀ i ∈ is, i.wellFormed = true) (h : Leads s.sig s.regs is ps r')
    (hp : ps.getLast? = some p) :
    ∃ t, (runScriptFrom is s).getLast? = some t ∧ t.regs = r' ∧ t.rsp = some p := by
  have hlast := congrArg List.getLast? (runScriptFrom_eq_commands is s hwf)
  rw [List.getLast?_map, List.getLast?_map, h.commands_getLast? hp] at hlast
  obtain ⟨t, ht, heq⟩ := Option.map_eq_some_iff.1 hlast
  obtain ⟨hregs, hrsp⟩ := Prod.mk.inj heq
  exact ⟨t, ht, hregs, hrsp⟩

/-- The states of a script hold its responses. -/
theorem Leads.rsp_of_mem {t : State} (hwf : ∀ i ∈ is, i.wellFormed = true) (h : Leads s.sig s.regs is ps r')
    (ht : t ∈ runScriptFrom is s) : ∃ p ∈ ps, t.rsp = some p := by
  obtain ⟨k, hk⟩ := List.mem_iff_getElem?.1 ht
  obtain ⟨a, ha, -, hrsp⟩ := commands_of_runScriptFrom hwf hk
  exact ⟨a.2, h.commands_rsp ▸ List.mem_map_of_mem (List.mem_of_getElem? ha), hrsp⟩

/-- A `START` with the bytes after it is a script of well-formed commands. -/
theorem wellFormed_start_pushs (m : Mode) (bs : List Byte) : ∀ i ∈ m.start :: pushs bs, i.wellFormed = true :=
  fun i hi => runScript_wellFormed m bs i (List.cons_subset_cons _ (List.subset_append_left _ _) hi)

/-! ### Each `START` -/

/-- Settles O9: in `STREAM` with no byte absorbed `END` completes, and `INIT xor 0xFFFFFFFF` is 0. -/
theorem startCrcBeginsAStream : Obligations.StartCrcBeginsAStream := by
  have hempty : crcOut Config.crcInit = 0x00000000 := by decide
  exact ⟨rfl, fun _ => ⟨rfl, _, _, rfl, rfl, hempty, rfl, hempty⟩⟩

/-- The tag of the rule's example, `"RuSt"`. -/
def rustTag : TypeTag := ⟨0x52, 0x75, 0x53, 0x74⟩

/-- Settles O10: the four bytes of `"RuSt"` lead to `DONE` (`leads_type_done`). -/
theorem startTagBeginsATagCheck : Obligations.StartTagBeginsATagCheck := by
  refine ⟨rfl, fun s => ⟨rfl, ?_⟩⟩
  have htype := leads_type_done (sig := s.sig) (r := (command s.sig .startTag s.regs).1) (t := rustTag) rfl rfl rfl
    (by decide)
  have hleads : Leads s.sig s.regs (.startTag :: pushs rustTag.bytes) _ _ := .cons rfl htype
  obtain ⟨t, hlast, hregs, -⟩ := hleads.exists_last_state (wellFormed_start_pushs .tag _) rfl
  have hfacets : rustTag.facets = 0x1D := by decide
  exact ⟨t, hlast, by rw [hregs], hregs ▸ hfacets⟩

/-- The chunk of the rule's example: type `"IEND"`, no payload. -/
def iendChunk : Chunk :=
  { length := 0, type := ⟨0x49, 0x45, 0x4E, 0x44⟩, payload := [], checksum := 0xAE426082 }

theorem iendChunk_consistent : iendChunk.consistent := ⟨rfl, by decide +kernel⟩

theorem iendChunk_legalType : iendChunk.legalType := by
  unfold Chunk.legalType
  decide

/-- Settles O11: the twelve bytes are the record of a legal chunk (`leads_record`). -/
theorem startChunkBeginsARecord : Obligations.StartChunkBeginsARecord := by
  refine ⟨rfl, fun s => ⟨rfl, ?_⟩⟩
  have hrecord := leads_record (sig := s.sig) (r := (command s.sig .startChunk s.regs).1) ⟨rfl, rfl, .inl rfl⟩
    iendChunk_consistent iendChunk_legalType
  have hleads : Leads s.sig s.regs (.startChunk :: pushs (encodeChunk iendChunk)) _ _ := .cons rfl hrecord
  obtain ⟨t, hlast, hregs, hrsp⟩ := hleads.exists_last_state (wellFormed_start_pushs .chunk _) rfl
  exact ⟨t, hlast, by rw [hregs]; rfl, hrsp⟩

/-- Settles O12: the signature opens the first record (`leads_signature`), where `END` completes the container. -/
theorem startContBeginsAContainer : Obligations.StartContBeginsAContainer := by
  refine ⟨rfl, fun s => ?_⟩
  have hsignature := leads_signature (sig := s.sig) (r := (command s.sig .startCont s.regs).1) rfl rfl
  have hleads : Leads s.sig s.regs (.startCont :: (pushSignature s.sig ++ [.endBuffer])) _ _ :=
    .cons rfl (hsignature.append (leads_end_boundary rfl rfl rfl))
  have hwf := runScript_wellFormed .cont s.sig.toList
  obtain ⟨t, hlast, hregs, -⟩ := hleads.exists_last_state hwf rfl
  refine ⟨rfl, ⟨t, hlast, by rw [hregs]⟩, fun t ht => ?_⟩
  obtain ⟨p, hp, hrsp⟩ := hleads.rsp_of_mem hwf ht
  have hnoChunk : ∀ q ∈ Response.ack .none :: (quiet 8 ++ [.ack .done]), q ≠ .ack .chunk := by decide
  rw [hrsp]
  exact fun heq => hnoChunk p hp (Option.some.inj heq)

end Sys2Proof.Machine

/-! PROOFS. The consumer along a list of inputs (70_reset R225): what it holds follows from what the host drives, and from a
`START` or a reset on nothing before matters. -/

namespace Sys2Proof.Machine

variable {s s' t t' : State} {c : Consumer} {x : Input} {ins : List Input}

/-! ### The consumer and the machine, one input at a time -/

/-- The state after a step on the input `x`; `stepOn_eq_after` says that it is the step's. -/
def State.after (s : State) (x : Input) : State :=
  match x.reset, x.command with
  | true, _ => s.applyReset
  | false, none => s.stayIdle
  | false, some w =>
    { s with regs := (command s.sig (decode w) s.regs).1, rsp := some (command s.sig (decode w) s.regs).2 }

theorem stepOn_eq_after (x : Input) (s : State) : stepOn x s = .next (s.after x) := by
  obtain ⟨rst, cmd⟩ := x
  cases rst
  · cases cmd
    · rfl
    · exact stepOn_command_eq _ _
  · rfl

theorem State.after_sig (s : State) (x : Input) : (s.after x).sig = s.sig := by
  obtain ⟨_ | _, _ | _⟩ := x <;> rfl

theorem State.after_input (s : State) (x : Input) : (s.after x).input = s.input := by
  obtain ⟨_ | _, _ | _⟩ := x <;> rfl

theorem State.after_withInput (s : State) (x : Input) (rest : List Input) :
    State.after { s with input := rest } x = { s.after x with input := rest } := by
  obtain ⟨_ | _, _ | _⟩ := x <;> rfl

/-- The machine takes one input and the consumer sees the step; `foldl_see_observeFrom` ties it to the observation. -/
def attend (p : State × Consumer) (x : Input) : State × Consumer := (p.1.after x, p.2.see (x, p.1.after x))

/-- What the consumer makes of a response depends on the registers and the response alone. -/
theorem Consumer.seeResponse_congr (c : Consumer) (hregs : t.regs = t'.regs) (hrsp : t.rsp = t'.rsp) :
    c.seeResponse t = c.seeResponse t' := by
  unfold Consumer.seeResponse
  rw [hregs, hrsp]

theorem Consumer.see_congr (c : Consumer) (x : Input) (hregs : t.regs = t'.regs) (hrsp : t.rsp = t'.rsp) :
    c.see (x, t) = c.see (x, t') := by
  unfold Consumer.see
  simp only [c.seeResponse_congr hregs hrsp]

/-- The first step of an observation, and the rest from the state after it. -/
theorem observeFrom_cons (x : Input) (ins : List Input) (s : State) :
    observeFrom (x :: ins) s = (x, { s.after x with input := ins }) :: observeFrom ins (s.after x) := by
  have hstep : step { s with input := x :: ins } = .next { s.after x with input := ins } := by
    rw [step_cons rfl, stepOn_eq_after, ← State.after_withInput]
  exact observe_succ_of_step _ hstep

theorem foldl_see_observeFrom (ins : List Input) (s : State) (c : Consumer) :
    (observeFrom ins s).foldl Consumer.see c = (ins.foldl attend (s, c)).2 := by
  induction ins generalizing s c with
  | nil => rfl
  | cons x ins ih =>
    have hsee : c.see (x, { s.after x with input := ins }) = c.see (x, s.after x) := c.see_congr x rfl rfl
    rw [observeFrom_cons, List.foldl_cons, hsee, ih, List.foldl_cons, attend]

theorem committed_observeFrom (ins : List Input) (s : State) :
    committed (observeFrom ins s) = (ins.foldl attend (s, Consumer.empty)).2.results :=
  congrArg Consumer.results (foldl_see_observeFrom ins s Consumer.empty)

theorem foldl_attend_keeps (ins : List Input) (s : State) (c : Consumer) :
    (ins.foldl attend (s, c)).1.sig = s.sig ∧ (ins.foldl attend (s, c)).1.input = s.input := by
  induction ins generalizing s c with
  | nil => exact ⟨rfl, rfl⟩
  | cons x ins ih =>
    obtain ⟨hsig, hinput⟩ := ih (s.after x) (c.see (x, s.after x))
    exact ⟨hsig.trans (s.after_sig x), hinput.trans (s.after_input x)⟩

/-- The results so far stay in front of those to come and decide none of them. -/
theorem foldl_attend_results (ins : List Input) (s : State) (c : Consumer) :
    (ins.foldl attend (s, c)).2 = { (ins.foldl attend (s, { c with results := [] })).2 with
      results := c.results ++ (ins.foldl attend (s, { c with results := [] })).2.results } := by
  induction ins generalizing s c with
  | nil => simp
  | cons x ins ih =>
    have hsee := c.see_results (x, s.after x)
    simp only [List.foldl_cons, attend]
    rw [ih, ih _ (Consumer.see { c with results := [] } _), hsee]
    simp

/-! ### Machines that agree up to the draw -/

theorem PushCase.phase_ne_idle {sig : Config.Signature} {b : Byte} {r : Regs} {a : Regs × Response} {e : Event}
    (h : PushCase sig b r a) (ha : a.2 = .ack e) : a.1.phase ≠ .idle := by
  cases h with
  | resting => cases ha
  | stream hp | sigMore hp | lenMore hp | typeMore hp | payloadMore hp | csumMore hp =>
    simp [Regs.afterTypeByte, hp]
  | _ => exact Phase.noConfusion

theorem EndCase.phase_ne_idle {r : Regs} {a : Regs × Response} {e : Event} (h : EndCase r a) (ha : a.2 = .ack e) :
    a.1.phase ≠ .idle := by
  cases h with
  | resting => cases ha
  | complete | inSignature | inField => exact Phase.noConfusion

/-- A command that is accepted does not leave the block in `IDLE`. -/
theorem command_phase_ne_idle {sig : Config.Signature} {i : Instr} {r : Regs} {e : Event}
    (h : (command sig i r).2 = .ack e) : (command sig i r).1.phase ≠ .idle := by
  cases i with
  | startCrc | startTag | startChunk | startCont => exact Phase.noConfusion
  | push b => exact (push_case sig b r).phase_ne_idle h
  | endBuffer => exact (end_case r).phase_ne_idle h
  | reservedStart | reservedEnd | reservedOp3 => cases h

theorem State.after_phase_ne_idle {e : Event} (h : (s.after x).rsp = some (.ack e)) :
    (s.after x).regs.phase ≠ .idle := by
  obtain ⟨_ | _, _ | w⟩ := x
  · cases h
  · exact command_phase_ne_idle (Option.some.inj h)
  · cases h
  · cases h

/-- A step that accepted no command tells the consumer nothing. -/
theorem Consumer.seeResponse_of_not_accepted (c : Consumer) (h : ∀ e, t.rsp ≠ some (.ack e)) :
    c.seeResponse t = c := by
  rcases hrsp : t.rsp with _ | e | _
  · simp [Consumer.seeResponse, hrsp]
  · exact absurd hrsp (h e)
  · simp [Consumer.seeResponse, hrsp]

/-- In `IDLE` nothing has been accepted, and elsewhere the registers agree: the consumer sees the same. -/
theorem Consumer.seeResponse_agreeUpToDraw (c : Consumer) (x : Input) (hregs : (s.after x).regs.AgreeUpToDraw t.regs)
    (hrsp : (s.after x).rsp = t.rsp) : c.seeResponse (s.after x) = c.seeResponse t := by
  by_cases hidle : (s.after x).regs.phase = .idle
  · have hnone : ∀ e, (s.after x).rsp ≠ some (.ack e) := fun e he => State.after_phase_ne_idle he hidle
    rw [c.seeResponse_of_not_accepted hnone, c.seeResponse_of_not_accepted (hrsp ▸ hnone)]
  · exact c.seeResponse_congr (hregs.regs hidle) hrsp

theorem Consumer.see_agreeUpToDraw (c : Consumer) (x : Input) (hregs : (s.after x).regs.AgreeUpToDraw t.regs)
    (hrsp : (s.after x).rsp = t.rsp) : c.see (x, s.after x) = c.see (x, t) := by
  unfold Consumer.see
  simp only [c.seeResponse_agreeUpToDraw x hregs hrsp]

/-- From machines that agree up to the draw the consumer gets the same. -/
theorem foldl_attend_agreeUpToDraw (ins : List Input) (c : Consumer) (h : s.AgreeUpToDraw s') :
    (ins.foldl attend (s, c)).2 = (ins.foldl attend (s', c)).2 := by
  induction ins generalizing s s' c with
  | nil => rfl
  | cons x ins ih =>
    obtain ⟨hnext, hrsp⟩ := stepOn_agreeUpToDraw x h (stepOn_eq_after x s) (stepOn_eq_after x s')
    simp only [List.foldl_cons, attend]
    rw [c.see_agreeUpToDraw x hnext.regs hrsp]
    exact ih _ hnext

/-! ### A `START` or a reset -/

/-- The host asserts reset or issues a `START`. -/
def Input.BeginsAnew (x : Input) : Prop := x.reset = true ∨ ∃ w, x.command = some w ∧ isStart (decode w) = true

/-- Whatever the machine did before, after a `START` or a reset the registers agree up to the draw. -/
theorem Input.BeginsAnew.agreeUpToDraw (hx : x.BeginsAnew) (hsig : s.sig = s'.sig) :
    (s.after x).regs.AgreeUpToDraw (s'.after x).regs := by
  obtain ⟨rst, cmd⟩ := x
  cases rst with
  | true => exact Regs.afterReset_agreeUpToDraw _ _
  | false =>
    obtain ⟨w, rfl, hstart⟩ := hx.resolve_left Bool.false_ne_true
    obtain ⟨m, hm⟩ := isStart_iff.1 hstart
    have hsame : (s.after ⟨false, some w⟩).regs = (s'.after ⟨false, some w⟩).regs := by
      simp only [State.after, hm, hsig, command_start s'.sig m s.regs s'.regs]
    exact hsame ▸ .refl _

/-- The consumer discards at a `START` and at a reset. -/
theorem Input.BeginsAnew.see (hx : x.BeginsAnew) (c : Consumer) (t : State) : c.see (x, t) = c.discard := by
  obtain ⟨rst, cmd⟩ := x
  cases rst with
  | true => rfl
  | false =>
    obtain ⟨w, rfl, hstart⟩ := hx.resolve_left Bool.false_ne_true
    exact c.see_start t w hstart

/-- What an operation leaves behind when it is abandoned is its place among the results, no more: from a `START` or a reset
on the machine and the consumer act as any other would (40_commands R84, 70_reset R225). -/
theorem committed_append_of_beginsAnew (before after : List Input) (hx : x.BeginsAnew) (hsig : s.sig = s'.sig) :
    committed (observeFrom (before ++ x :: after) s) =
      committed (observeFrom before s) ++ committed (observeFrom (x :: after) s') := by
  -- An observation overwrites the machine's own input list, so the two may be taken to have the same one.
  change committed (observeFrom (before ++ x :: after) { s with input := s'.input }) =
    committed (observeFrom before { s with input := s'.input }) ++ _
  simp only [committed_observeFrom, List.foldl_append, List.foldl_cons]
  obtain ⟨hsig', hinput⟩ := foldl_attend_keeps before { s with input := s'.input } Consumer.empty
  generalize before.foldl attend ({ s with input := s'.input }, Consumer.empty) = p at hsig' hinput ⊢
  have hsame : p.1.sig = s'.sig := hsig'.trans hsig
  have hagree : (p.1.after x).AgreeUpToDraw (s'.after x) :=
    ⟨hx.agreeUpToDraw hsame, by rw [State.after_sig, State.after_sig, hsame],
      by rw [State.after_input, State.after_input, hinput]⟩
  simp only [attend, hx.see]
  rw [foldl_attend_results, foldl_attend_agreeUpToDraw after _ hagree]
  rfl

end Sys2Proof.Machine

/-! PROOFS. A container run commits what `decode_container` gives (44_container R171), whatever came before it (40_commands
R84). -/

namespace Sys2Proof.Machine

variable {sig : Config.Signature} {i : Instr} {is js : List Instr} {r r' : Regs} {p : Response} {ps : List Response}
  {as : List (Regs × Response)} {c : Consumer} {e : ErrorKind} {n : Nat} {s : State} {buf : List Byte}

/-! ### The consumer along the answers of commands -/

/-- What the consumer makes of the answer to a command that is no `START`; `foldl_attend_issue` ties it to the machine. -/
def Consumer.hear (c : Consumer) (a : Regs × Response) : Consumer :=
  c.seeResponse { State.reset with regs := a.1, rsp := some a.2 }

theorem Consumer.hear_done : c.hear (r, .ack .done) = c.commit (.ok c.chunks) := rfl

theorem Consumer.hear_chunk (hm : r.mode ≠ .chunk) : c.hear (r, .ack .chunk) = c.addChunk (chunkAt r c.payload) :=
  if_neg hm

/-- The payload byte a response passes through. -/
def Response.payloadByte : Response → Option Byte
  | .ack (.payload b) => some b
  | .ack .none | .ack .chunk | .ack .done | .ack (.err _) | .refused => none

/-- Provisional answers bring payload bytes and nothing else. -/
theorem foldl_hear_provisional (c : Consumer) (has : ∀ p ∈ as.map Prod.snd, p.Provisional) :
    as.foldl Consumer.hear c =
      { c with payload := c.payload ++ (as.map Prod.snd).filterMap Response.payloadByte } := by
  induction as generalizing c with
  | nil => simp
  | cons a as ih =>
    obtain ⟨r, p⟩ := a
    rw [List.map_cons] at has
    obtain ⟨hp, hrest⟩ := List.forall_mem_cons.1 has
    rw [List.foldl_cons, ih _ hrest]
    rcases hp with rfl | ⟨b, rfl⟩
    · rfl
    · exact congrArg (fun m => { c with payload := m }) (List.append_assoc _ _ _)

theorem foldl_hear_refused (c : Consumer) (has : ∀ p ∈ as.map Prod.snd, p = .refused) :
    as.foldl Consumer.hear c = c := by
  induction as generalizing c with
  | nil => rfl
  | cons a as ih =>
    obtain ⟨r, p⟩ := a
    rw [List.map_cons] at has
    obtain ⟨rfl, hrest⟩ := List.forall_mem_cons.1 has
    exact ih c hrest

/-- On commands that are no `START` the consumer hears the answers of the step function. -/
theorem foldl_attend_issue (is : List Instr) (s : State) (c : Consumer)
    (his : ∀ i ∈ is, i.wellFormed = true ∧ isStart i = false) :
    ((is.map issue).foldl attend (s, c)).2 = (commands s.sig is s.regs).foldl Consumer.hear c := by
  induction is generalizing s c with
  | nil => rfl
  | cons i is ih =>
    obtain ⟨⟨hwf, hs⟩, his⟩ := List.forall_mem_cons.1 his
    have hdecode := decode_encode hwf
    have hafter : s.after (issue i) =
        { s with regs := (command s.sig i s.regs).1, rsp := some (command s.sig i s.regs).2 } := by
      simp only [State.after, issue, hdecode]
    have hsee : c.see (issue i, s.after (issue i)) = c.hear (command s.sig i s.regs) := by
      rw [issue, c.see_command _ _ (hdecode.symm ▸ hs), ← issue, hafter]
      exact c.seeResponse_congr rfl rfl
    rw [List.map_cons, List.foldl_cons, attend, hsee, ih _ _ his, hafter, commands, List.foldl_cons]

theorem Leads.commands_append (h : Leads sig r is ps r') (js : List Instr) :
    commands sig (is ++ js) r = commands sig is r ++ commands sig js r' := by
  induction h with
  | nil => rfl
  | cons hi _ ih => rw [List.cons_append, commands, commands, hi, ih, List.cons_append]

/-- The consumer after commands whose answers are provisional. -/
theorem Leads.hear_provisional (h : Leads sig r is ps r') (hps : ∀ p ∈ ps, p.Provisional) (c : Consumer) :
    (commands sig is r).foldl Consumer.hear c = { c with payload := c.payload ++ ps.filterMap Response.payloadByte } := by
  have hrsp := h.commands_rsp
  rw [foldl_hear_provisional c (hrsp ▸ hps), hrsp]

/-- The consumer after commands whose answers are provisional but for the last. -/
theorem Leads.hear_last (h : Leads sig r is (ps ++ [p]) r') (hps : ∀ p ∈ ps, p.Provisional) (c : Consumer) :
    (commands sig is r).foldl Consumer.hear c =
      Consumer.hear { c with payload := c.payload ++ ps.filterMap Response.payloadByte } (r', p) := by
  obtain ⟨as, hlast⟩ := List.getLast?_eq_some_iff.1 (h.commands_getLast? List.getLast?_concat)
  have hrsp := h.commands_rsp
  rw [hlast, List.map_append] at hrsp
  obtain rfl := (List.append_inj' hrsp rfl).1
  rw [hlast, List.foldl_append, foldl_hear_provisional c hps]
  rfl

/-- Commands that fail commit the error alone (44_container R168). -/
theorem FailsAt.hear (h : FailsAt sig e n is r) (c : Consumer) :
    (commands sig is r).foldl Consumer.hear c = c.commit (.error e) := by
  obtain ⟨ps, k, r', -, hps, hleads⟩ := h
  obtain ⟨as, rest, hcommands, rfl, hrest⟩ := List.map_eq_append_iff.1 hleads.commands_rsp
  obtain ⟨⟨r₁, p⟩, bs, rfl, rfl, hbs⟩ := List.map_eq_cons_iff.1 hrest
  have hrefused : ∀ p ∈ bs.map Prod.snd, p = .refused := fun p hp => List.eq_of_mem_replicate (hbs ▸ hp)
  rw [hcommands, List.foldl_append, foldl_hear_provisional c hps, List.foldl_cons, foldl_hear_refused _ hrefused]
  rfl

/-! ### Records and containers -/

theorem payloadBytes_quiet (n : Nat) : (quiet n).filterMap Response.payloadByte = [] := by
  simp [quiet, List.filterMap_replicate, Response.payloadByte]

theorem Leads.hear_quiet (h : Leads sig r is (quiet n) r') (c : Consumer) :
    (commands sig is r).foldl Consumer.hear c = c := by
  rw [h.hear_provisional fun _ => provisional_of_mem_quiet, payloadBytes_quiet, List.append_nil]

theorem payloadBytes_bodyResponses (m : List Byte) :
    (bodyResponses m ++ quiet 3).filterMap Response.payloadByte = m := by
  simp [bodyResponses, payloadBytes_quiet, List.filterMap_map, Function.comp_def, Response.payloadByte]

/-- The record of a legal chunk in a container joins the chunks of the operation. -/
theorem hear_record (hr : r.AtRecord) (hm : r.mode = .cont) {ch : Chunk} (hc : ch.consistent) (hl : ch.legalType)
    (hp : c.payload = []) :
    (commands sig (pushs (encodeChunk ch)) r).foldl Consumer.hear c = c.addChunk ch := by
  have hleads := leads_record (sig := sig) hr hc hl
  rw [← List.append_assoc] at hleads
  have hprovisional : ∀ p ∈ bodyResponses ch.payload ++ quiet 3, p.Provisional := fun p hmem =>
    (List.mem_append.1 hmem).elim provisional_of_mem_bodyResponses provisional_of_mem_quiet
  have hmode : (r.afterRecord ch).mode ≠ .chunk := by
    rw [(Regs.atRecord_afterRecord hm ch).2]
    decide
  rw [hleads.hear_last hprovisional, payloadBytes_bodyResponses, hp, List.nil_append, Consumer.hear_chunk hmode,
    Regs.chunkAt_afterRecord]
  rfl

/-- The loop of `decode_container` ends with the first record that fails (44_container R156). -/
theorem decodeRecords_of_error (hbuf : buf ≠ []) (hd : decodeChunk buf = .error e) :
    decodeRecords buf.length buf = .error e := by
  rw [decodeRecords_eq, if_neg hbuf, hd]

/-- The loop of `decode_container` goes on after a record that decodes (44_container R156). -/
theorem decodeRecords_of_ok {ch : Chunk} {rest : List Byte} (hd : decodeChunk buf = .ok (ch, rest)) :
    decodeRecords buf.length buf = (decodeRecords rest.length rest).map (ch :: ·) := by
  have hbuf : buf ≠ [] := by
    rintro rfl
    cases hd
  rw [decodeRecords_eq, if_neg hbuf, hd]
  dsimp only
  rcases decodeRecords rest.length rest with e | cs <;> rfl

/-- From the first byte of a record on, bytes and `END` commit what the loop of `decode_container` gives, after the chunks
already there (44_container R156, R171). -/
theorem hear_records (hr : r.AtRecord) (hm : r.mode = .cont) (hp : c.payload = []) :
    (commands sig (pushs buf ++ [.endBuffer]) r).foldl Consumer.hear c =
      c.commit ((decodeRecords buf.length buf).map (c.chunks ++ ·)) := by
  induction hn : buf.length using Nat.strong_induction_on generalizing buf r c with
  | _ n ih =>
  subst hn
  by_cases hbuf : buf = []
  · subst hbuf
    have hend := Leads.hear_last (ps := []) (leads_end_boundary (sig := sig) hr.phase hm hr.cnt) nofun c
    simpa [pushs, Consumer.hear_done, Except.map, decodeRecords, Consumer.commit] using hend
  · rcases hd : decodeChunk buf with e | ⟨ch, rest⟩
    · obtain ⟨n, -, hfails⟩ := record_failsAt (sig := sig) hr hd fun _ => hbuf
      rw [decodeRecords_of_error hbuf hd]
      exact hfails.hear c
    · have hcase := chunk_case buf
      rw [hd] at hcase
      cases hcase with
      | record _ _ hsplit hc hl =>
      obtain ⟨hnext, hmode⟩ := Regs.atRecord_afterRecord (r := r) hm ch
      have hshorter : rest.length < buf.length := by rw [hsplit, List.length_append, encodeChunk_length]; omega
      have hrest := ih _ hshorter (c := c.addChunk ch) hnext hmode rfl rfl
      rw [decodeRecords_of_ok hd, hsplit, pushs_append, List.append_assoc, (leads_record hr hc hl).commands_append,
        List.foldl_append, hear_record hr hm hc hl hp, hrest]
      rcases decodeRecords rest.length rest with e | cs <;> simp [Except.map, Consumer.commit]

/-- From the first signature byte on, bytes and `END` commit what `decode_container` gives. -/
theorem hear_container (hphase : r.phase = .sig) (hm : r.mode = .cont) (hcnt : r.cnt = 8) (hp : c.payload = []) :
    (commands sig (pushs buf ++ [.endBuffer]) r).foldl Consumer.hear c =
      c.commit ((decodeContainer sig buf).map (c.chunks ++ ·)) := by
  have hlen : sig.toList.length = 8 := sig.length_toList
  have hprefix : sig.toList <+: buf ↔ buf.take 8 = sig.toList := by
    rw [List.prefix_iff_eq_take, hlen, eq_comm]
  rw [decodeContainer]
  split_ifs with htake
  · obtain ⟨rest, rfl⟩ := hprefix.2 htake
    have hsignature := leads_signature (sig := sig) hphase hcnt
    have hrecords := hear_records (sig := sig) (r := { r with phase := .len, cnt := 4 }) (buf := rest)
      ⟨rfl, rfl, .inr hm⟩ hm hp
    rw [pushs_append, List.append_assoc, hsignature.commands_append, List.foldl_append, hsignature.hear_quiet, hrecords,
      List.drop_left' hlen, decodeRecords_bound (sig.toList ++ rest).length rest.length rest (by simp) le_rfl]
  · obtain ⟨front, x, xs, tail, hsplit, rfl, htail⟩ := exists_first_difference (mt hprefix.1 htake)
    have hawaits : r.AwaitsSignature sig (front ++ x :: xs) :=
      ⟨hphase, by rw [← hsplit, hlen, hcnt]; rfl, hsplit ▸ List.suffix_rfl⟩
    exact (signature_failsAt hawaits htail).hear c

theorem wellFormed_of_mem_pushs_end (h : i ∈ pushs buf ++ [.endBuffer]) : i.wellFormed = true :=
  runScript_wellFormed .cont buf i (List.mem_cons_of_mem _ h)

/-- A container run commits one result, that of `decode_container` (44_container R171). -/
theorem committed_observeRun_cont (buf : List Byte) (s : State) :
    committed (observeRun .cont buf s) = [decodeContainer s.sig buf] := by
  have hbegins : (issue .startCont).BeginsAnew := .inr ⟨_, rfl, rfl⟩
  have hplain : ∀ i ∈ pushs buf ++ [.endBuffer], i.wellFormed = true ∧ isStart i = false := fun i hi =>
    ⟨wellFormed_of_mem_pushs_end hi, isStart_of_mem_pushs_end hi⟩
  rw [observeRun, committed_observeFrom, runScript, List.map_cons, List.foldl_cons, attend, Mode.start, hbegins.see,
    foldl_attend_issue _ _ _ hplain, State.after_sig]
  have hcontainer := hear_container (sig := s.sig) (buf := buf) (r := (s.after (issue .startCont)).regs)
    (c := Consumer.empty.discard) rfl rfl rfl rfl
  rw [hcontainer]
  rcases decodeContainer s.sig buf with e | cs <;> simp [Except.map, Consumer.empty]

/-- Settles O60: a `START` or a reset cuts off what came before (`committed_append_of_beginsAnew`), and the container run
that follows commits its own result alone (`committed_observeRun_cont`). -/
theorem abandonedOperationsLeaveNothingBehind : Obligations.AbandonedOperationsLeaveNothingBehind := by
  refine ⟨fun before after x s s' hsig hx => committed_append_of_beginsAnew before after hx hsig, fun before buf s => ?_⟩
  have hbegins : (issue .startCont).BeginsAnew := .inr ⟨_, rfl, rfl⟩
  rw [← committed_observeRun_cont buf s]
  exact committed_append_of_beginsAnew before _ hbegins rfl

end Sys2Proof.Machine

/-! PROOFS. The CRC unit: its two forms, linear over xor and invertible (41_crc R96, R97, R99, R102). -/

namespace Sys2Proof.Machine

/-! ### The two forms -/

theorem reverse_xor {w : Nat} (x y : BitVec w) : (x ^^^ y).reverse = x.reverse ^^^ y.reverse :=
  BitVec.eq_of_getLsbD_eq fun i _ => by simp only [BitVec.getLsbD_reverse, BitVec.getMsbD_xor, BitVec.getLsbD_xor]

theorem reverse_shiftLeft_one {w : Nat} (x : BitVec w) : (x <<< 1).reverse = x.reverse >>> 1 :=
  BitVec.eq_of_getLsbD_eq fun i hi => by
    simp only [BitVec.getLsbD_reverse, BitVec.getMsbD_shiftLeft, BitVec.getLsbD_ushiftRight, Nat.add_comm]

/-- The reflected byte at the top of the msb-first register is the byte at the bottom of the lsb-first one (R96). -/
theorem reverse_byteAtTop (b : Byte) : (b.reverse.setWidth 32 <<< 24).reverse = b.setWidth 32 := by
  refine BitVec.eq_of_getLsbD_eq fun i hi => ?_
  rw [BitVec.getLsbD_reverse, BitVec.getMsbD_shiftLeft, BitVec.getMsbD_setWidth, BitVec.getMsbD_reverse,
    BitVec.getLsbD_setWidth]
  simp [hi]

theorem reverse_poly : Config.poly.reverse = Config.polyReflected := by decide +kernel

/-- One shift of the msb-first register, read backwards, is one shift of the lsb-first register (R96). -/
theorem reverse_crcShiftMsb : Function.Semiconj BitVec.reverse crcShiftMsb crcShift := by
  intro reg
  have hbit : reg.reverse.getLsbD 0 = reg.getLsbD 31 := BitVec.getLsbD_reverse
  rw [crcShiftMsb, crcShift, hbit]
  split_ifs
  · rw [reverse_xor, reverse_shiftLeft_one, reverse_poly]
  · rw [reverse_shiftLeft_one]

theorem reverse_crcStepMsb (reg : Word) (b : Byte) : (crcStepMsb reg b).reverse = crcStep reg.reverse b := by
  rw [crcStepMsb, (reverse_crcShiftMsb.iterate_right 8).eq, reverse_xor, reverse_byteAtTop, crcStep]

/-- Settles O38: all along the message the lsb-first register is the msb-first one read backwards
(`reverse_crcStepMsb`). -/
theorem bothFormsOfTheCrcAgree : Obligations.BothFormsOfTheCrcAgree := by
  intro m
  have hinit : Config.crcInit.reverse = Config.crcInit := by decide +kernel
  have hregs : m.foldl crcStep Config.crcInit.reverse = (m.foldl crcStepMsb Config.crcInit).reverse :=
    List.foldl_hom BitVec.reverse fun reg b => (reverse_crcStepMsb reg b).symm
  rw [crc32Msb, ← hregs, hinit]
  rfl

/-! ### The shift and the step -/

/-- What a shift xors onto the register: the product of the bit shifted out with the constant (R99). -/
def crcTap (bit : Bool) : Word := if bit then Config.polyReflected else 0

theorem crcShift_eq (c : Word) : crcShift c = c >>> 1 ^^^ crcTap (c.getLsbD 0) := by
  rw [crcShift, crcTap]
  split_ifs
  · rfl
  · exact BitVec.xor_zero.symm

theorem crcTap_xor (x y : Bool) : crcTap (x ^^ y) = crcTap x ^^^ crcTap y := by
  revert x y; decide

/-- A shift is linear over xor (R99). -/
theorem crcShift_xor (c d : Word) : crcShift (c ^^^ d) = crcShift c ^^^ crcShift d := by
  rw [crcShift_eq, crcShift_eq, crcShift_eq, BitVec.ushiftRight_xor_distrib, BitVec.getLsbD_xor, crcTap_xor]
  ac_rfl

theorem iterate_crcShift_xor (n : Nat) (c d : Word) :
    crcShift^[n] (c ^^^ d) = crcShift^[n] c ^^^ crcShift^[n] d := by
  induction n generalizing c d with
  | zero => rfl
  | succ n ih => rw [Function.iterate_succ_apply, crcShift_xor, ih]; rfl

/-- The step is linear over xor in register and byte together (R99). -/
theorem crcStep_xor (c d : Word) (b e : Byte) : crcStep (c ^^^ d) (b ^^^ e) = crcStep c b ^^^ crcStep d e := by
  rw [crcStep, crcStep, crcStep, ← iterate_crcShift_xor, BitVec.setWidth_xor]
  ac_rfl

/-- While the bits shifted out are 0 the constant does not enter. -/
theorem iterate_crcShift_of_low_zero {n : Nat} {c : Word} (h : ∀ i < n, c.getLsbD i = false) :
    crcShift^[n] c = c >>> n := by
  induction n with
  | zero => exact (BitVec.ushiftRight_zero c).symm
  | succ n ih =>
    have hbit : (c >>> n).getLsbD 0 = false := (BitVec.getLsbD_ushiftRight ..).trans (h n n.lt_succ_self)
    rw [Function.iterate_succ_apply', ih fun i hi => h i (Nat.lt_succ_of_lt hi), crcShift_eq, hbit,
      BitVec.shiftRight_add]
    exact BitVec.xor_zero

theorem byte_ushiftRight_eight (b : Byte) : b.setWidth 32 >>> 8 = 0#32 := by bv_omega

/-- The register with its lowest byte cleared. -/
def upperBytes (x : Word) : Word := x ^^^ (x.extractLsb' 0 8).setWidth 32

theorem upperBytes_xor_lowByte (x : Word) : upperBytes x ^^^ (x.extractLsb' 0 8).setWidth 32 = x := by
  rw [upperBytes, BitVec.xor_assoc, BitVec.xor_self, BitVec.xor_zero]

theorem upperBytes_low_zero (x : Word) {i : Nat} (hi : i < 8) : (upperBytes x).getLsbD i = false := by
  simp [upperBytes, hi, Nat.lt_trans hi]

theorem upperBytes_ushiftRight_eight (x : Word) : upperBytes x >>> 8 = x >>> 8 := by
  rw [upperBytes, BitVec.ushiftRight_xor_distrib, byte_ushiftRight_eight, BitVec.xor_zero]

theorem crcTable_eq (i : Byte) : crcTable i = crcShift^[8] (i.setWidth 32) := congrArg crcShift^[8] BitVec.zero_xor

/-- Eight shifts move the upper bytes down and put the table entry of the lowest byte over them (R97). -/
theorem iterate_crcShift_eight (x : Word) : crcShift^[8] x = x >>> 8 ^^^ crcTable (x.extractLsb' 0 8) := by
  conv_lhs => rw [← upperBytes_xor_lowByte x]
  rw [iterate_crcShift_xor, iterate_crcShift_of_low_zero fun _ => upperBytes_low_zero x,
    upperBytes_ushiftRight_eight, crcTable_eq]

/-- Settles O39: the step is eight shifts of the register with the byte xored in (`iterate_crcShift_eight`). -/
theorem crcStepIsOneTableLookup : Obligations.CrcStepIsOneTableLookup := by
  refine ⟨fun c b => ?_, by decide +kernel⟩
  rw [crcStep, iterate_crcShift_eight, BitVec.ushiftRight_xor_distrib, byte_ushiftRight_eight, BitVec.xor_zero]

/-! ### The step is invertible -/

/-- Bit 31 of the result tells whether the constant was applied, so only the register 0 shifts to 0 (R99). -/
theorem eq_zero_of_crcShift_eq_zero {c : Word} (h : crcShift c = 0) : c = 0 := by
  rw [crcShift_eq, BitVec.ofNat_eq_ofNat, BitVec.xor_eq_zero_iff] at h
  cases hbit : c.getLsbD 0 with
  | false =>
    have hshift : c >>> 1 = 0 := by rw [h, hbit]; rfl
    have hlow : c.toNat % 2 = 0 := by simpa [BitVec.getLsbD] using hbit
    bv_omega
  | true =>
    have htop : (c >>> 1).getLsbD 31 = false := by simp
    rw [h, hbit] at htop
    exact absurd htop (by decide +kernel)

theorem crcShift_injective : Function.Injective crcShift := fun c d h =>
  BitVec.xor_eq_zero_iff.1 (eq_zero_of_crcShift_eq_zero (by rw [crcShift_xor, h]; exact BitVec.xor_self))

theorem crcStep_injective (b : Byte) : Function.Injective (crcStep · b) := fun _ _ h =>
  (BitVec.xor_left_inj _).1 (crcShift_injective.iterate 8 h)

theorem crcStep_byte_injective (c : Word) : Function.Injective (crcStep c) := fun b e h => by
  have hext : b.setWidth 32 = e.setWidth 32 := (BitVec.xor_right_inj c).1 (crcShift_injective.iterate 8 h)
  bv_omega

/-- Settles O40: an injective function on the finite set of registers is a bijection (`crcStep_injective`); the xor of
two pairs steps to the xor of the results (`crcStep_xor`). -/
theorem crcStepIsBijectiveAndLinear : Obligations.CrcStepIsBijectiveAndLinear :=
  ⟨fun b => Finite.injective_iff_bijective.1 (crcStep_injective b), crcStep_xor, by decide⟩

theorem crcAbsorb_append (c : Word) (m m' : List Byte) : crcAbsorb c (m ++ m') = crcAbsorb (crcAbsorb c m) m' :=
  List.foldl_append

theorem crcAbsorb_injective (m : List Byte) : Function.Injective (crcAbsorb · m) := by
  induction m with
  | nil => exact Function.injective_id
  | cons b m ih => exact ih.comp (crcStep_injective b)

/-- Messages that differ in one byte have different checksums: the registers differ from there on (R102). -/
theorem crc32_ne_of_byte_ne (m m' : List Byte) {b e : Byte} (h : b ≠ e) :
    crc32 (m ++ b :: m') ≠ crc32 (m ++ e :: m') := by
  intro heq
  have habsorb := (BitVec.xor_left_inj _).1 heq
  rw [crcAbsorb_append, crcAbsorb_append] at habsorb
  exact h (crcStep_byte_injective _ (crcAbsorb_injective m' habsorb))

theorem bit_ne_zero {j : Nat} (hj : j < 8) : 1#8 <<< j ≠ 0#8 := by
  revert j; decide

/-- Settles O41: a flipped bit is one byte changed (`crc32_ne_of_byte_ne`). -/
theorem crcSeesEveryOneBitDifference : Obligations.CrcSeesEveryOneBitDifference := by
  refine ⟨by decide, by decide +kernel, by decide +kernel, fun m pos j hpos hj => ?_, 0, 1, by decide +kernel⟩
  have hflip : m[pos] ^^^ 1#8 <<< j ≠ m[pos] := fun h =>
    bit_ne_zero hj ((BitVec.xor_right_inj m[pos]).1 (h.trans BitVec.xor_zero.symm))
  have hm : m = m.take pos ++ m[pos] :: m.drop (pos + 1) := by simp
  rw [flipBit, List.modify_eq_take_cons_drop hpos]
  conv_rhs => rw [hm]
  exact crc32_ne_of_byte_ne _ _ hflip

end Sys2Proof.Machine

/-! PROOFS. A `CRC` run: bytes absorbed in `STREAM`, `END` with the checksum (41_crc R95, R98, R100). -/

namespace Sys2Proof.Machine

variable {sig : Config.Signature} {is js : List Instr} {r r' : Regs} {p : Response} {ps : List Response} {s : State}

/-! ### A state inside a script -/

theorem commands_length (sig : Config.Signature) (is : List Instr) (r : Regs) :
    (commands sig is r).length = is.length := by
  induction is generalizing r with
  | nil => rfl
  | cons i is ih => rw [commands, List.length_cons, ih, List.length_cons]

/-- The state after the first commands of a script holds the registers they lead to and their last response. -/
theorem Leads.exists_state_at (hwf : ∀ i ∈ is ++ js, i.wellFormed = true) (h : Leads s.sig s.regs is ps r')
    (hp : ps.getLast? = some p) :
    ∃ t, (runScriptFrom (is ++ js) s)[is.length - 1]? = some t ∧ t.regs = r' ∧ t.rsp = some p := by
  have hlast := h.commands_getLast? hp
  rw [List.getLast?_eq_getElem?, commands_length] at hlast
  have hindex := (List.getElem?_eq_some_iff.1 hlast).1
  have hat := congrArg (·[is.length - 1]?) (runScriptFrom_eq_commands _ s hwf)
  simp only [h.commands_append, List.getElem?_map, List.getElem?_append_left hindex, hlast, Option.map_some] at hat
  obtain ⟨t, ht, heq⟩ := Option.map_eq_some_iff.1 hat
  obtain ⟨hregs, hrsp⟩ := Prod.mk.inj heq
  exact ⟨t, ht, hregs, hrsp⟩

/-! ### The run -/

/-- Bytes pushed in `STREAM` are absorbed (R98). -/
theorem leads_stream (hp : r.phase = .stream) (m : List Byte) :
    Leads sig r (pushs m) (quiet m.length) { r with crc := crcAbsorb r.crc m } := by
  induction m generalizing r with
  | nil => exact .nil r
  | cons b m ih => exact .push (.stream hp) (ih (r := { r with crc := crcStep r.crc b }) hp)

/-- The registers of a `CRC` run after the bytes `m`; `leads_startCrc` ties them to the step function. -/
def streamRegs (m : List Byte) : Regs := { startCrc.1 with crc := crcAbsorb Config.crcInit m }

theorem leads_startCrc (r : Regs) (m : List Byte) :
    Leads sig r (.startCrc :: pushs m) (quiet m.length.succ) (streamRegs m) :=
  .cons rfl (leads_stream rfl m)

/-- In the registers of a `CRC` run `CRC_OUT` is the checksum of the bytes so far (R95). -/
theorem streamRegs_crcOut (m : List Byte) : (streamRegs m).statusPort.crcOut = crc32 m := rfl

/-- `END` in `STREAM` keeps the checksum (R100). -/
theorem leads_crcRun (r : Regs) (m : List Byte) :
    Leads sig r (runScript .crc m) (quiet m.length.succ ++ [.ack .done]) { streamRegs m with phase := .done } :=
  have hend := EndCase.endBuffer_eq (.complete (r := streamRegs m) (.inl rfl))
  (leads_startCrc r m).append (.cons hend (.nil _))

/-- After `k` bytes `CRC_OUT` is the checksum of those (R95). -/
theorem crcRun_state_at (s : State) {m : List Byte} {k : Nat} (hk : k ≤ m.length) :
    ∃ t, (run .crc m s)[k]? = some t ∧ t.regs.phase = .stream ∧ t.regs.err = .none ∧
      t.regs.statusPort.crcOut = crc32 (m.take k) := by
  have hscript : runScript .crc m = (.startCrc :: pushs (m.take k)) ++ (pushs (m.drop k) ++ [.endBuffer]) := by
    rw [List.cons_append, ← List.append_assoc, ← pushs_append, List.take_append_drop]
    rfl
  have hindex : (Instr.startCrc :: pushs (m.take k)).length - 1 = k := by simp [pushs, hk]
  obtain ⟨t, ht, hregs, -⟩ := (leads_startCrc s.regs (m.take k)).exists_state_at
    (hscript ▸ runScript_wellFormed .crc m) (by rw [quiet, List.getLast?_replicate, if_neg (Nat.succ_ne_zero _)])
  rw [hindex, ← hscript] at ht
  exact ⟨t, ht, by rw [hregs]; rfl, by rw [hregs]; rfl, by rw [hregs, streamRegs_crcOut]⟩

/-- After `END` it is the checksum of the whole message (R100). -/
theorem crcRun_last_state (s : State) (m : List Byte) :
    ∃ t, (run .crc m s).getLast? = some t ∧ t.regs.phase = .done ∧ t.rsp = some (.ack .done) ∧
      t.regs.statusPort.crcOut = crc32 m := by
  obtain ⟨t, ht, hregs, hrsp⟩ :=
    (leads_crcRun s.regs m).exists_last_state (runScript_wellFormed .crc m) List.getLast?_concat
  exact ⟨t, ht, by rw [hregs], hrsp, by rw [hregs]; exact streamRegs_crcOut m⟩

/-- Settles O42: the bytes are absorbed one by one (`crcRun_state_at`) and `END` keeps `CRC` (`crcRun_last_state`). -/
theorem crcRunGivesTheChecksum : Obligations.CrcRunGivesTheChecksum := by
  refine ⟨fun s m => ⟨fun k hk => crcRun_state_at s hk, crcRun_last_state s m⟩, fun s => ?_⟩
  have hiend : crc32 [0x49, 0x45, 0x4E, 0x44] = 0xAE426082 := by decide +kernel
  obtain ⟨t, ht, -, -, hout⟩ := crcRun_last_state s [0x49, 0x45, 0x4E, 0x44]
  exact ⟨t, ht, hout.trans hiend⟩

/-- Settles O15: the case `STREAM` of `PUSH` (`PushCase.stream`); the example is the register after one byte. -/
theorem pushInStreamAbsorbsTheByte : Obligations.PushInStreamAbsorbsTheByte := by
  refine ⟨fun s b hp => ?_, fun s => ?_⟩
  · rw [exec_push, PushCase.push_eq (.stream hp)]
  · have hcrc : crcAbsorb Config.crcInit [0x74] = 0x7A95A557 := by decide +kernel
    have hout : crc32 [0x74] = 0x856A5AA8 := by decide +kernel
    obtain ⟨t, ht, hregs, -⟩ := (leads_startCrc s.regs [0x74]).exists_last_state (wellFormed_start_pushs .crc _) rfl
    exact ⟨t, ht, hregs ▸ hcrc, by rw [hregs, streamRegs_crcOut, hout]⟩

end Sys2Proof.Machine

/-! PROOFS. The type-tag checker on its own: byte classes, legality, facets, the number of legal tags (42_typetag R105 to
R112). -/

namespace Sys2Proof.Machine

/-! ### Byte classes -/

/-- An uppercase letter is a byte of the range `0x41` to `0x5A` (R105). -/
theorem isUpper_iff (b : Byte) : isUpper b = true ↔ 0x41 ≤ b.toNat ∧ b.toNat ≤ 0x5A := by
  simp [isUpper, BitVec.le_def]

/-- A lowercase letter is a byte of the range `0x61` to `0x7A` (R105). -/
theorem isLower_iff (b : Byte) : isLower b = true ↔ 0x61 ≤ b.toNat ∧ b.toNat ≤ 0x7A := by
  simp [isLower, BitVec.le_def]

theorem isAlpha_iff (b : Byte) : isAlpha b = true ↔ isUpper b = true ∨ isLower b = true := Bool.or_eq_true_iff

theorem isAlpha_of_isUpper {b : Byte} (h : isUpper b = true) : isAlpha b = true := (isAlpha_iff b).2 (.inl h)

/-- The two ranges do not meet. -/
theorem isLower_of_isUpper {b : Byte} (h : isUpper b = true) : isLower b = false := by
  rw [isUpper_iff] at h
  rw [← Bool.not_eq_true, isLower_iff]
  omega

/-- Bit 5 is the bit of weight 32. -/
theorem getLsbD_five (b : Byte) : b.getLsbD 5 = decide (b.toNat / 32 % 2 = 1) := Nat.testBit_eq_decide_div_mod_eq

/-- `0x41` to `0x5A` lie between 64 and 96, where the bit of weight 32 is 0. -/
theorem getLsbD_five_of_isUpper {b : Byte} (h : isUpper b = true) : b.getLsbD 5 = false := by
  rw [isUpper_iff] at h
  rw [getLsbD_five, decide_eq_false_iff_not]
  omega

/-- `0x61` to `0x7A` lie between 96 and 128, where it is 1. -/
theorem getLsbD_five_of_isLower {b : Byte} (h : isLower b = true) : b.getLsbD 5 = true := by
  rw [isLower_iff] at h
  rw [getLsbD_five, decide_eq_true_iff]
  omega

/-- The range ends below `0x80`. -/
theorem isAlpha_of_top {b : Byte} (h : 0x80 ≤ b.toNat) : isAlpha b = false := by
  rw [← Bool.not_eq_true, isAlpha_iff, isUpper_iff, isLower_iff]
  omega

/-- Of a letter bit 5 says which case it is (R105). -/
theorem case_of_isAlpha {b : Byte} (h : isAlpha b = true) : isLower b = !isUpper b ∧ isUpper b = !b.getLsbD 5 := by
  rcases (isAlpha_iff b).1 h with hup | hlow
  · rw [hup, isLower_of_isUpper hup, getLsbD_five_of_isUpper hup]
    decide
  · have hup : isUpper b = false := Bool.eq_false_iff.2 fun hup => nomatch (isLower_of_isUpper hup).symm.trans hlow
    rw [hup, hlow, getLsbD_five_of_isLower hlow]
    decide

/-- Settles O43: the ranges (`isUpper_iff`, `isLower_iff`) and bit 5 (`case_of_isAlpha`); both tests on a single bit fail
on the byte 0. -/
theorem byteClassesAreRanges : Obligations.ByteClassesAreRanges :=
  ⟨fun b => ⟨isUpper_iff b, isLower_iff b, isAlpha_iff b, isAlpha_of_top, case_of_isAlpha⟩,
    ⟨0, by decide⟩, ⟨0, by decide⟩⟩

/-! ### The tag test and the facets -/

/-- All four bytes are letters and byte 2 is uppercase (R109). -/
theorem TypeTag.valid_iff (t : TypeTag) : t.valid = true ↔ (∀ b ∈ t.bytes, isAlpha b = true) ∧ isUpper t.t2 = true := by
  simp [TypeTag.valid, TypeTag.bytes, and_assoc]

/-- A tag is accepted exactly when it is valid: an invalid one fails the first test or the second (R109). -/
theorem TypeTag.valid_iff_tagCheck (t : TypeTag) : t.valid = true ↔ tagCheck t = .ok () := by
  refine ⟨fun hvalid => ?_, TypeTag.valid_of_tagCheck⟩
  obtain ⟨halpha, hup⟩ := t.valid_iff.1 hvalid
  rcases hcheck : tagCheck t with e | _
  · rcases (tagCheck_error_iff t e).1 hcheck with ⟨-, hlow⟩ | ⟨-, -, b, hb, hnot⟩
    · exact absurd (hlow.symm.trans hup) nofun
    · exact absurd (hnot.symm.trans (halpha b hb)) nofun
  · rfl

/-- The four facets of single bytes, from `critical` at bit 0 (10_state R19, 42_typetag R108). -/
theorem TypeTag.facets_getLsbD_low (t : TypeTag) :
    t.facets.getLsbD 0 = isUpper t.t0 ∧ t.facets.getLsbD 1 = isUpper t.t1 ∧ t.facets.getLsbD 2 = isUpper t.t2 ∧
      t.facets.getLsbD 3 = isLower t.t3 := by
  simp only [TypeTag.facets, BitVec.getLsbD_append]
  simp [TypeTag.critical, TypeTag.isPublic, TypeTag.reservedValid, TypeTag.safeToCopy]

/-- Settles O44: the two errors are those of `tagCheck_error_iff`, acceptance is `valid` (`TypeTag.valid_iff_tagCheck`). -/
theorem tagCheckAndFacets : Obligations.TagCheckAndFacets := by
  intro t
  obtain ⟨hcritical, hpublic, hreserved, hsafe⟩ := t.facets_getLsbD_low
  exact ⟨fun hlow => (tagCheck_error_iff t _).2 (.inl ⟨rfl, hlow⟩),
    fun hup hnot => (tagCheck_error_iff t _).2 (.inr ⟨rfl, hup, hnot⟩),
    fun hup halpha => t.valid_iff_tagCheck.1 (t.valid_iff.2 ⟨halpha, hup⟩),
    hcritical, hpublic, hreserved, hsafe, t.facets_getLsbD_four, t.valid_iff, t.valid_iff_tagCheck⟩

/-- Settles O45: `"RuSt"` and `"ruSt"` pass both tests; in `"Rust"` and `"Ru1t"` the first fails on byte 2, so the digit
never meets the second (R112). -/
theorem tagExamples : Obligations.TagExamples := by
  have hreserved (t : TypeTag) (h : isUpper t.t2 = false) : tagCheck t = .error .reservedBitError :=
    (tagCheck_error_iff t _).2 (.inl ⟨rfl, h⟩)
  exact ⟨by decide, by decide, hreserved _ (by decide), hreserved _ (by decide), by decide, by decide⟩

/-! ### The number of legal tags -/

/-- The set of legal tags (R110): byte 2 uppercase is a letter already. -/
theorem tagCheck_ok_iff (t : TypeTag) :
    tagCheck t = .ok () ↔
      isAlpha t.t0 = true ∧ isAlpha t.t1 = true ∧ isUpper t.t2 = true ∧ isAlpha t.t3 = true := by
  have hbytes : (∀ b ∈ t.bytes, isAlpha b = true) ↔
      isAlpha t.t0 = true ∧ isAlpha t.t1 = true ∧ isAlpha t.t2 = true ∧ isAlpha t.t3 = true := by
    simp [TypeTag.bytes]
  rw [← t.valid_iff_tagCheck, t.valid_iff, hbytes]
  constructor
  · rintro ⟨⟨h0, h1, -, h3⟩, h2⟩
    exact ⟨h0, h1, h2, h3⟩
  · rintro ⟨h0, h1, h2, h3⟩
    exact ⟨⟨h0, h1, isAlpha_of_isUpper h2, h3⟩, h2⟩

/-- A range of bytes has as many as the range of their values. -/
theorem ncard_byteRange (lo hi : Nat) (hhi : hi < 256) :
    {b : Byte | lo ≤ b.toNat ∧ b.toNat ≤ hi}.ncard = hi + 1 - lo := by
  have himage : BitVec.toNat '' {b : Byte | lo ≤ b.toNat ∧ b.toNat ≤ hi} = Finset.Icc lo hi := by
    ext n
    rw [Finset.coe_Icc, Set.mem_Icc]
    constructor
    · rintro ⟨b, hb, rfl⟩
      exact hb
    · intro hn
      have hval : (BitVec.ofNat 8 n).toNat = n := by rw [BitVec.toNat_ofNat]; omega
      exact ⟨BitVec.ofNat 8 n, by rwa [Set.mem_ofPred_eq, hval], hval⟩
  rw [← Set.ncard_image_of_injective _ fun _ _ => BitVec.eq_of_toNat_eq, himage, Set.ncard_coe_finset, Nat.card_Icc]

theorem ncard_isUpper : {b | isUpper b = true}.ncard = 26 := by
  simp only [isUpper_iff]
  exact ncard_byteRange 0x41 0x5A (by decide)

theorem ncard_isLower : {b | isLower b = true}.ncard = 26 := by
  simp only [isLower_iff]
  exact ncard_byteRange 0x61 0x7A (by decide)

/-- The letters are the two disjoint ranges together. -/
theorem ncard_isAlpha : {b | isAlpha b = true}.ncard = 52 := by
  have hdisjoint : Disjoint {b | isUpper b = true} {b | isLower b = true} :=
    Set.disjoint_left.2 fun _ hup hlow => nomatch (isLower_of_isUpper hup).symm.trans hlow
  simp only [isAlpha_iff]
  rw [Set.ofPred_or, Set.ncard_union_eq hdisjoint, ncard_isUpper, ncard_isLower]

/-- The four bytes of a tag as a product; injective by `TypeTag.toProd_injective`. -/
def TypeTag.toProd (t : TypeTag) : Byte × Byte × Byte × Byte := (t.t0, t.t1, t.t2, t.t3)

theorem TypeTag.toProd_injective : Function.Injective TypeTag.toProd := by
  rintro ⟨⟩ ⟨⟩ h
  simpa [TypeTag.toProd] using h

/-- The legal tags are the product of the sets their bytes range over (R110). -/
theorem toProd_image_legalTags :
    TypeTag.toProd '' {t | tagCheck t = .ok ()} =
      {b | isAlpha b = true} ×ˢ {b | isAlpha b = true} ×ˢ {b | isUpper b = true} ×ˢ {b | isAlpha b = true} := by
  simp only [tagCheck_ok_iff]
  ext ⟨b0, b1, b2, b3⟩
  constructor
  · rintro ⟨t, ht, heq⟩
    exact heq ▸ ht
  · exact fun hb => ⟨⟨b0, b1, b2, b3⟩, hb, rfl⟩

/-- Settles O46: the legal tags are a product of sets of 52, 52, 26 and 52 bytes (`toProd_image_legalTags`). -/
theorem numberOfLegalTags : Obligations.NumberOfLegalTags := by
  refine ⟨tagCheck_ok_iff, ?_⟩
  rw [← Set.ncard_image_of_injective _ TypeTag.toProd_injective, toProd_image_legalTags]
  simp only [Set.ncard_prod, ncard_isAlpha, ncard_isUpper]

end Sys2Proof.Machine

/-! PROOFS. The tag checker on the machine: `PUSH` in phase `TYPE` and a `TAG` run (42_typetag R113 to R115). -/

namespace Sys2Proof.Machine

variable {is : List Instr} {r' : Regs} {ps : List Response} {s : State}

/-- Settles O19: the cases of `PUSH` in phase `TYPE` (`PushCase`), one for each way on. -/
theorem pushInTypeChecksTheTag : Obligations.PushInTypeChecksTheTag := by
  rintro s b r hp rfl
  refine ⟨fun _ hc => ?_, fun hc => ?_⟩
  · rw [exec_push, push_typeMore hp hc]; rfl
  · rintro tag rfl
    refine ⟨fun e ht => ?_, fun ht hm => ?_, fun ht hm hl => ?_, fun ht hm hl => ?_⟩
    · rw [exec_push, PushCase.push_eq (.typeIllegal e hp hc ht)]; rfl
    · rw [exec_push, PushCase.push_eq (.typeTag hp hc ht hm)]; rfl
    · rw [exec_push, PushCase.push_eq (.typeEmpty hp hc ht hm hl)]; rfl
    · rw [exec_push, PushCase.push_eq (.typePayload hp hc ht hm hl)]; rfl

/-! ### The run -/

/-- The outcome of a script is that of the first of its responses that decides (40_commands R83). -/
theorem Leads.outcome_eq (mode : Mode) (hwf : ∀ i ∈ is, i.wellFormed = true) (h : Leads s.sig s.regs is ps r') :
    outcome mode (runScriptFrom is s) = ps.findSome? fun p => decides mode (some p) := by
  have hfirst := congrArg (List.findSome? fun p => decides mode p.2) (runScriptFrom_eq_commands is s hwf)
  rw [List.findSome?_map, List.findSome?_map] at hfirst
  rw [← h.commands_rsp, List.findSome?_map]
  exact hfirst

/-- What the fourth byte of the tag `t` gives in a `TAG` run when the check answers `v`: the operation ends, with the tag
and its facets written (R113, R115). `leads_tagRun` ties it to the step function. -/
def TypeTag.verdict (t : TypeTag) : Except ErrorKind Unit → Regs × Response
  | .ok () => tagDone (startTag.1.withTag t)
  | .error e => raise e (startTag.1.withTag t)

section
variable (t : TypeTag) (v : Except ErrorKind Unit)

/-- Whatever the check answers, the tag stands in `TYPE`, its facets in `FACETS`, and its checksum is in `CRC`. -/
theorem TypeTag.verdict_written :
    (t.verdict v).1.type = t.toWord ∧ (t.verdict v).1.facets = t.facets ∧ (t.verdict v).1.cnt = 0 ∧
      (t.verdict v).1.statusPort.crcOut = crc32 t.bytes := by
  cases v <;> exact ⟨rfl, rfl, rfl, rfl⟩

theorem TypeTag.verdict_resting : (t.verdict v).1.phase.isActive = false := by cases v <;> rfl

/-- The fourth byte decides the run as the check does (R115). -/
theorem TypeTag.verdict_decides : decides .tag (some (t.verdict v).2) = some v := by cases v <;> rfl

end

/-- `START.TAG` and the four bytes lead to the verdict. -/
theorem leads_tagBytes (sig : Config.Signature) (r : Regs) (t : TypeTag) :
    Leads sig r (.startTag :: pushs t.bytes) (quiet 4 ++ [(t.verdict (tagCheck t)).2]) (t.verdict (tagCheck t)).1 := by
  rcases hcheck : tagCheck t with e | _
  · exact .cons rfl (leads_type_illegal rfl rfl hcheck)
  · exact .cons rfl (leads_type_done rfl rfl rfl hcheck)

/-- The `END` after it finds the block resting and is refused. -/
theorem leads_tagRun (sig : Config.Signature) (r : Regs) (t : TypeTag) :
    Leads sig r (runScript .tag t.bytes) (quiet 4 ++ [(t.verdict (tagCheck t)).2] ++ [.refused])
      (t.verdict (tagCheck t)).1 :=
  (leads_tagBytes sig r t).append (.cons (command_resting (t.verdict_resting _) rfl) (.nil _))

/-- The fourth `PUSH` of a `TAG` run leaves the verdict. -/
theorem tagRun_state_four (s : State) (t : TypeTag) :
    ∃ u, (run .tag t.bytes s)[4]? = some u ∧ u.regs = (t.verdict (tagCheck t)).1 ∧
      u.rsp = some (t.verdict (tagCheck t)).2 :=
  (leads_tagBytes s.sig s.regs t).exists_state_at (runScript_wellFormed .tag t.bytes) List.getLast?_concat

/-- The `END` keeps it. -/
theorem tagRun_state_five (s : State) (t : TypeTag) :
    ∃ u, (run .tag t.bytes s)[5]? = some u ∧ u.regs = (t.verdict (tagCheck t)).1 ∧ u.rsp = some .refused :=
  (leads_tagRun s.sig s.regs t).exists_state_at (js := []) (runScript_wellFormed .tag t.bytes) List.getLast?_concat

theorem tagRun_outcome (s : State) (t : TypeTag) : outcome .tag (run .tag t.bytes s) = some (tagCheck t) := by
  refine ((leads_tagRun s.sig s.regs t).outcome_eq .tag (runScript_wellFormed .tag t.bytes)).trans ?_
  have hverdict := t.verdict_decides (tagCheck t)
  have hquiet : decides .tag (some (.ack .none)) = none := rfl
  simp [quiet, hquiet, hverdict]

/-- Settles O47: a `TAG` run ends at its fourth `PUSH` with the verdict of the check (`leads_tagRun`); the example is the
run of `"ruSt"`. -/
theorem tagRunAgreesWithTagCheck : Obligations.TagRunAgreesWithTagCheck := by
  refine ⟨fun s tag => ?_, fun s => ?_⟩
  · obtain ⟨t, ht, hregs, hrsp⟩ := tagRun_state_four s tag
    obtain ⟨u, hu, huregs, hursp⟩ := tagRun_state_five s tag
    obtain ⟨htype, hfacets, hcnt, hcrc⟩ := tag.verdict_written (tagCheck tag)
    rw [← hregs] at htype hfacets hcnt hcrc
    refine ⟨t, u, ht, hu, htype, hfacets, hcnt, hcrc, fun hok => ?_, fun e herr => ?_, tagRun_outcome s tag, hursp,
      huregs.trans hregs.symm⟩
    · rw [hregs, hrsp, hok]
      exact ⟨rfl, rfl, rfl⟩
    · rw [hregs, hrsp, herr]
      exact ⟨rfl, rfl, rfl⟩
  · have hcheck : tagCheck ⟨0x72, 0x75, 0x53, 0x74⟩ = .ok () := by decide
    obtain ⟨t, ht, hregs, -⟩ := tagRun_state_four s ⟨0x72, 0x75, 0x53, 0x74⟩
    rw [hcheck] at hregs
    exact ⟨t, ht, by rw [hregs]; rfl, by rw [hregs]; decide⟩

end Sys2Proof.Machine

/-! PROOFS. `decode_chunk` against `encode_chunk`: the round trip (43_chunk_framer R143) and a flipped bit (R144). -/

namespace Sys2Proof.Machine

variable {l s : Word} {t : TypeTag} {p m rest buf : List Byte} {c : Chunk} {e : ErrorKind} {i j pos : Nat}

/-! ### `decode_chunk` by the fields of a record -/

theorem encodeChunk_append (c : Chunk) (rest : List Byte) :
    encodeChunk c ++ rest = be32 c.length ++ (c.type.bytes ++ (c.payload ++ (be32 c.checksum ++ rest))) := by
  simp only [encodeChunk, List.append_assoc]

/-- An illegal tag decides, whatever follows it (43_chunk_framer R127). -/
theorem decodeChunk_of_illegal (ht : tagCheck t = .error e) :
    decodeChunk (be32 l ++ (t.bytes ++ m)) = .error e := by
  rw [decodeChunk_eq_decodeBody, decodeBody, ht]

/-- A legal tag and a whole payload leave the checksum field to decide (43_chunk_framer R126). -/
theorem decodeChunk_of_legal (ht : tagCheck t = .ok ()) (hp : p.length = l.toNat) :
    decodeChunk (be32 l ++ (t.bytes ++ (p ++ m))) = decodeChecksum l t p m := by
  have henough : ¬ (p ++ m).length < l.toNat := by rw [List.length_append]; omega
  rw [decodeChunk_eq_decodeBody, decodeBody, ht]
  simp only [if_neg henough, List.take_left' hp, List.drop_left' hp]

theorem decodeChunk_of_wrongChecksum (ht : tagCheck t = .ok ()) (hp : p.length = l.toNat)
    (hs : s ≠ crc32 (t.bytes ++ p)) :
    decodeChunk (be32 l ++ (t.bytes ++ (p ++ (be32 s ++ rest)))) = .error .checksumError := by
  rw [decodeChunk_of_legal ht hp, decodeChecksum_be32, if_neg hs]

/-! ### The round trip -/

/-- A legal chunk's record decodes to it, and what follows it is left untouched (R143 (a)). -/
theorem decodeChunk_encodeChunk (hc : c.consistent) (hl : c.legalType) (rest : List Byte) :
    decodeChunk (encodeChunk c ++ rest) = .ok (c, rest) := by
  obtain ⟨hlen, hsum⟩ := hc
  rw [encodeChunk_append, decodeChunk_of_legal hl hlen.symm, decodeChecksum_be32, if_pos hsum]

/-- Only a legal chunk's record decodes, to that chunk (R143 (b)). -/
theorem decodeChunk_ok (h : decodeChunk buf = .ok (c, rest)) :
    buf = encodeChunk c ++ rest ∧ c.consistent ∧ c.legalType := by
  have hcase := chunk_case buf
  rw [h] at hcase
  cases hcase with
  | record _ _ hbuf hc hl => exact ⟨hbuf, hc, hl⟩

/-- A created chunk has the tag it was asked for, and its length and checksum are those of its payload (R142). -/
theorem createChunk_spec (h : createChunk t p = some c) : c.type = t ∧ c.consistent := by
  unfold createChunk at h
  split_ifs at h with hlen
  obtain rfl := Option.some.inj h
  exact ⟨rfl, Nat.mod_eq_of_lt (Nat.lt_succ_of_le hlen), rfl⟩

/-- The record of a consistent chunk is twelve bytes and its payload, as its length field says (30_encoding R46). -/
theorem encodeChunk_length_of_consistent (hc : c.consistent) : (encodeChunk c).length = 12 + c.length.toNat := by
  obtain ⟨hlen, -⟩ := hc
  rw [encodeChunk_length, hlen]

/-- Settles O49: encoding is undone by `decodeChunk_encodeChunk`, and only what encoding gives is decoded
(`decodeChunk_ok`). -/
theorem chunkRoundTrip : Obligations.ChunkRoundTrip := by
  refine ⟨fun t p c rest ht hcreate => ?_, fun buf rest c hd => ?_, fun t p c e ht hcreate => ?_⟩
  · obtain ⟨rfl, hc⟩ := createChunk_spec hcreate
    exact decodeChunk_encodeChunk hc ht rest
  · obtain ⟨rfl, hc, hl⟩ := decodeChunk_ok hd
    have hlen := encodeChunk_length_of_consistent hc
    exact ⟨(List.take_left' hlen).symm, (List.drop_left' hlen).symm, by rw [← hlen, List.length_append]; omega, hc, hl⟩
  · obtain ⟨rfl, -⟩ := createChunk_spec hcreate
    rw [← List.append_nil (encodeChunk c), encodeChunk_append]
    exact decodeChunk_of_illegal ht

/-! ### A flipped bit -/

theorem flipBit_append_right {n : Nat} {xs : List Byte} (ys : List Byte) (i j : Nat) (hn : xs.length = n) :
    flipBit (xs ++ ys) (n + i) j = xs ++ flipBit ys i j := by
  subst hn
  induction xs with
  | nil => rw [List.length_nil, Nat.zero_add, List.nil_append, List.nil_append]
  | cons x xs ih =>
    rw [List.length_cons, Nat.succ_add]
    exact congrArg (x :: ·) ih

theorem flipBit_append_left {xs : List Byte} (ys : List Byte) (j : Nat) (hpos : pos < xs.length) :
    flipBit (xs ++ ys) pos j = flipBit xs pos j ++ ys := by
  induction xs generalizing pos with
  | nil => exact absurd hpos (Nat.not_lt_zero _)
  | cons x xs ih =>
    cases pos with
    | zero => rfl
    | succ pos => exact congrArg (x :: ·) (ih (Nat.lt_of_succ_lt_succ hpos))

@[simp] theorem flipBit_length (m : List Byte) (pos j : Nat) : (flipBit m pos j).length = m.length :=
  List.length_modify ..

theorem exists_be32 (h : m.length = 4) : ∃ s, m = be32 s := by
  obtain ⟨s, rest, rfl⟩ := exists_be32_append h.ge
  obtain rfl : rest = [] := by simpa using h
  exact ⟨s, List.append_nil _⟩

theorem crc32_flipBit_ne (hpos : pos < m.length) (hj : j < 8) : crc32 (flipBit m pos j) ≠ crc32 m := by
  obtain ⟨-, -, -, hflip, -⟩ := crcSeesEveryOneBitDifference
  exact hflip m pos j hpos hj

/-- A flipped bit changes the message: even its checksum differs. -/
theorem flipBit_ne (hpos : pos < m.length) (hj : j < 8) : flipBit m pos j ≠ m := fun h =>
  crc32_flipBit_ne hpos hj (congrArg crc32 h)

/-- A bit flipped behind the length field. -/
theorem flipBit_encodeChunk (c : Chunk) (rest : List Byte) (i j : Nat) :
    flipBit (encodeChunk c) (4 + i) j ++ rest =
      be32 c.length ++ (flipBit (c.type.bytes ++ (c.payload ++ be32 c.checksum)) i j ++ rest) := by
  rw [encodeChunk, List.append_assoc, List.append_assoc, flipBit_append_right _ i j (be32_length _), List.append_assoc]

/-- A bit of the type flipped so that the tag is illegal: the new tag decides (R144). -/
theorem decodeChunk_flipType_illegal (hi : i < 4) (ht : t.bytes = flipBit c.type.bytes i j)
    (he : tagCheck t = .error e) :
    decodeChunk (flipBit (encodeChunk c) (4 + i) j ++ rest) = .error e := by
  rw [flipBit_encodeChunk, flipBit_append_left _ j hi, ← ht, List.append_assoc]
  exact decodeChunk_of_illegal he

section
variable (hc : c.consistent) (rest : List Byte)
include hc

/-- A bit of the type flipped so that the tag stays legal: the checksum of type and payload is another one (R144). -/
theorem decodeChunk_flipType_legal (hi : i < 4) (hj : j < 8) (ht : t.bytes = flipBit c.type.bytes i j)
    (hl : tagCheck t = .ok ()) :
    decodeChunk (flipBit (encodeChunk c) (4 + i) j ++ rest) = .error .checksumError := by
  obtain ⟨hlen, hsum⟩ := hc
  have hne : crc32 (flipBit (c.type.bytes ++ c.payload) i j) ≠ crc32 (c.type.bytes ++ c.payload) :=
    crc32_flipBit_ne (by rw [List.length_append]; exact Nat.lt_add_right _ hi) hj
  rw [flipBit_append_left _ j hi, ← ht, ← hsum] at hne
  rw [flipBit_encodeChunk, flipBit_append_left _ j hi, ← ht]
  simp only [List.append_assoc]
  exact decodeChunk_of_wrongChecksum hl hlen.symm hne.symm

variable (hl : c.legalType)
include hl

/-- A bit of the payload flipped: the checksum of type and payload is another one (R144). -/
theorem decodeChunk_flipPayload (hi : i < c.payload.length) (hj : j < 8) :
    decodeChunk (flipBit (encodeChunk c) (4 + (4 + i)) j ++ rest) = .error .checksumError := by
  obtain ⟨hlen, hsum⟩ := hc
  have hne : crc32 (flipBit (c.type.bytes ++ c.payload) (4 + i) j) ≠ crc32 (c.type.bytes ++ c.payload) :=
    crc32_flipBit_ne (by simpa using hi) hj
  rw [flipBit_append_right _ i j c.type.bytes_length, ← hsum] at hne
  rw [flipBit_encodeChunk, flipBit_append_right _ i j c.type.bytes_length, flipBit_append_left _ j hi]
  simp only [List.append_assoc]
  exact decodeChunk_of_wrongChecksum hl (by rw [flipBit_length, hlen]) hne.symm

/-- A bit of the checksum field flipped: the field holds another word than the checksum (R144). -/
theorem decodeChunk_flipChecksum (hi : i < 4) (hj : j < 8) :
    decodeChunk (flipBit (encodeChunk c) (4 + (4 + (c.payload.length + i))) j ++ rest) = .error .checksumError := by
  obtain ⟨hlen, hsum⟩ := hc
  obtain ⟨s, hs⟩ : ∃ s, flipBit (be32 c.checksum) i j = be32 s := exists_be32 (flipBit_length _ i j)
  have hne : s ≠ c.checksum := by
    rintro rfl
    exact flipBit_ne hi hj hs
  rw [flipBit_encodeChunk, flipBit_append_right _ _ j c.type.bytes_length, flipBit_append_right _ i j rfl, hs]
  simp only [List.append_assoc]
  exact decodeChunk_of_wrongChecksum hl hlen.symm (hsum ▸ hne)

end

/-- The chunk of T22 (95_test_vectors): type `"RuSt"`, payload `41`. -/
def rustChunk : Chunk := { length := 1, type := rustTag, payload := [0x41], checksum := 0xFC626605 }

theorem rustChunk_consistent : rustChunk.consistent := ⟨rfl, by decide +kernel⟩

theorem rustChunk_legalType : rustChunk.legalType := by
  unfold Chunk.legalType
  decide

/-- Settles O50: behind the length field the lemma of the field the bit is in; in the length, `"RuSt"` with one payload
byte is read as a chunk of 2^31 + 1 bytes or as one of none. -/
theorem oneFlippedBitIsDetected : Obligations.OneFlippedBitIsDetected := by
  refine ⟨fun c rest pos j hc hl hj => ⟨fun hpos hend => ?_, fun hpos hend t ht => ?_⟩,
    ⟨rustChunk, 0, 7, rustChunk_consistent, rustChunk_legalType, by decide, by decide, by decide +kernel⟩,
    ⟨rustChunk, 3, 0, rustChunk_consistent, rustChunk_legalType, by decide, by decide, by decide +kernel⟩⟩
  · obtain ⟨i, rfl⟩ := Nat.exists_eq_add_of_le hpos
    rw [encodeChunk_length] at hend
    rw [Nat.add_assoc 4 4 i]
    rcases Nat.lt_or_ge i c.payload.length with hi | hi
    · exact decodeChunk_flipPayload hc rest hl hi hj
    · obtain ⟨k, rfl⟩ := Nat.exists_eq_add_of_le hi
      exact decodeChunk_flipChecksum hc rest hl (by omega) hj
  · obtain ⟨i, rfl⟩ := Nat.exists_eq_add_of_le hpos
    rw [Nat.add_sub_cancel_left] at ht
    have hi : i < 4 := Nat.lt_of_add_lt_add_left hend
    rcases hcheck : tagCheck t with e | _
    · exact decodeChunk_flipType_illegal hi ht hcheck
    · exact decodeChunk_flipType_legal hc rest hi hj ht hcheck

end Sys2Proof.Machine

/-! PROOFS. The framer on the machine: the fields of a record one command at a time (43_chunk_framer R131 to R139), and
the machine in `CHUNK` mode as `decode_chunk` (R145). -/

namespace Sys2Proof.Machine

variable {sig : Config.Signature} {is js : List Instr} {r' : Regs} {p : Response} {ps : List Response} {s : State}
  {buf : List Byte} {c : Chunk} {e : ErrorKind} {mode : Mode} {n k : Nat}

/-! ### One command inside a record -/

/-- Settles O18: the cases of `PUSH` in phase `LEN`; a whole field leads to its big-endian value (`leads_len`). -/
theorem pushInLenAssemblesTheLength : Obligations.PushInLenAssemblesTheLength := by
  refine ⟨fun s b hp _ hc => ?_, fun s b hp hc => ?_, fun s b₀ b₁ b₂ b₃ hp hc => ?_⟩
  · rw [exec_push, push_lenMore hp hc]; rfl
  · rw [exec_push, PushCase.push_eq (.lenLast hp hc)]; rfl
  · have hleads := leads_len (sig := s.sig) hp hc (unbe32 b₀ b₁ b₂ b₃)
    rw [be32_unbe32] at hleads
    have hwf : ∀ i ∈ pushs [b₀, b₁, b₂, b₃], i.wellFormed = true := fun i hi =>
      wellFormed_start_pushs .chunk _ i (List.mem_cons_of_mem _ hi)
    obtain ⟨t, ht, hregs, -⟩ := hleads.exists_last_state hwf rfl
    exact ⟨t, ht, hregs⟩

/-- Settles O20: the cases of `PUSH` in phase `PAYLOAD`. -/
theorem pushInPayloadPassesTheByteThrough : Obligations.PushInPayloadPassesTheByteThrough := by
  refine fun s b hp => ⟨fun _ hc => ?_, fun hc => ?_⟩
  · rw [exec_push, push_payloadMore hp hc]
  · rw [exec_push, PushCase.push_eq (.payloadLast hp hc)]

/-- Settles O21: the cases of `PUSH` in phase `CSUM`, one for each way on. -/
theorem pushInCsumComparesTheChecksum : Obligations.PushInCsumComparesTheChecksum := by
  rintro s b r hp rfl
  refine ⟨fun _ hc => ?_, fun hc heq hm => ?_, fun hc heq hm => ?_, fun hc hne => ?_⟩
  · rw [exec_push, push_csumMore hp hc]; rfl
  · rw [exec_push, PushCase.push_eq (.csumChunk hp hc heq hm)]; rfl
  · rw [exec_push, PushCase.push_eq (.csumCont hp hc heq hm)]; rfl
  · rw [exec_push, PushCase.push_eq (.csumWrong hp hc hne)]; rfl

/-- Settles O23: the case of `END` inside a field. -/
theorem endInsideAFieldIsAFramingError : Obligations.EndInsideAFieldIsAFramingError := by
  intro s h
  rw [exec_eq_answer, State.answer_eq, command, EndCase.endBuffer_eq (.inField h)]

/-! ### The states of a script -/

/-- The states of a script hold its responses, in order. -/
theorem Leads.map_rsp (hwf : ∀ i ∈ is, i.wellFormed = true) (h : Leads s.sig s.regs is ps r') :
    (runScriptFrom is s).map State.rsp = ps.map some := by
  have hrsp := congrArg (List.map Prod.snd) (runScriptFrom_eq_commands is s hwf)
  rw [List.map_map, List.map_map] at hrsp
  rw [← h.commands_rsp, List.map_map]
  exact hrsp

/-- The state after the command of index `k` holds the response to it. -/
theorem Leads.exists_state_with_rsp (hwf : ∀ i ∈ is, i.wellFormed = true) (h : Leads s.sig s.regs is ps r')
    (hp : ps[k]? = some p) : ∃ t, (runScriptFrom is s)[k]? = some t ∧ t.rsp = some p := by
  have hk := congrArg (·[k]?) (h.map_rsp hwf)
  simp only [List.getElem?_map, hp, Option.map_some] at hk
  exact Option.map_eq_some_iff.1 hk

theorem payloadEvents_eq (tr : List State) :
    payloadEvents tr = (tr.map State.rsp).filterMap fun p => p.bind Response.payloadByte := by
  rw [List.filterMap_map]
  refine congrArg (List.filterMap · tr) (funext fun s => ?_)
  obtain ⟨_, _, _, _ | (_ | _ | _ | _ | _) | _, _⟩ := s <;> rfl

/-- The payload events of the first states of a script are those of its first responses. -/
theorem Leads.payloadEvents_take (hwf : ∀ i ∈ is, i.wellFormed = true) (h : Leads s.sig s.regs is ps r') (n : Nat) :
    payloadEvents ((runScriptFrom is s).take n) = (ps.take n).filterMap Response.payloadByte := by
  rw [payloadEvents_eq, List.map_take, h.map_rsp hwf, ← List.map_take, List.filterMap_map]
  rfl

/-- Once the block rests, the rest of a script is refused and keeps the registers. -/
theorem Leads.refused_after {t : State} (hwf : ∀ i ∈ is ++ js, i.wellFormed = true) (h : Leads s.sig s.regs is ps r')
    (hrest : r'.phase.isActive = false) (hjs : ∀ i ∈ js, isStart i = false) (hk : is.length ≤ k)
    (ht : (runScriptFrom (is ++ js) s)[k]? = some t) : t.rsp = some .refused ∧ t.regs = r' := by
  obtain ⟨a, ha, hregs, hrsp⟩ := commands_of_runScriptFrom hwf ht
  rw [h.commands_append, commands_resting hrest hjs, List.getElem?_append_right (by rwa [commands_length])] at ha
  obtain rfl := List.eq_of_mem_replicate (List.mem_of_getElem? ha)
  exact ⟨hrsp, hregs⟩

/-- Provisional responses decide nothing, so the first other one that decides gives the outcome. -/
theorem findSome?_decides_provisional {o : Except ErrorKind Unit} (hps : ∀ p ∈ ps, p.Provisional)
    (hp : decides mode (some p) = some o) (qs : List Response) :
    ((ps ++ p :: qs).findSome? fun p => decides mode (some p)) = some o := by
  have hnone : (ps.findSome? fun p => decides mode (some p)) = none := by
    rw [List.findSome?_eq_none_iff]
    intro q hq
    rcases hps q hq with rfl | ⟨b, rfl⟩ <;> rfl
  rw [List.findSome?_append, hnone, List.findSome?_cons, hp]
  rfl

theorem Consumer.hear_chunk_last (hm : r'.mode = .chunk) (c : Consumer) :
    c.hear (r', .ack .chunk) = (c.addChunk (chunkAt r' c.payload)).commit (.ok (c.chunks ++ [chunkAt r' c.payload])) :=
  if_pos hm

/-- What a run commits is what the consumer makes of the answers to its bytes and `END`. -/
theorem committed_observeRun (mode : Mode) (buf : List Byte) (s : State) :
    committed (observeRun mode buf s) =
      ((commands s.sig (pushs buf ++ [.endBuffer]) (command s.sig mode.start s.regs).1).foldl Consumer.hear
        Consumer.empty).results := by
  have hdecode : decode (encode mode.start) = mode.start :=
    decode_encode (runScript_wellFormed mode buf _ List.mem_cons_self)
  have hbegins : (issue mode.start).BeginsAnew := .inr ⟨_, rfl, hdecode.symm ▸ isStart_iff.2 ⟨mode, rfl⟩⟩
  have hregs : (s.after (issue mode.start)).regs = (command s.sig mode.start s.regs).1 := by
    simp only [State.after, issue, hdecode]
  have hplain : ∀ i ∈ pushs buf ++ [.endBuffer], i.wellFormed = true ∧ isStart i = false := fun i hi =>
    ⟨wellFormed_of_mem_pushs_end hi, isStart_of_mem_pushs_end hi⟩
  rw [observeRun, committed_observeFrom, runScript, List.map_cons, List.foldl_cons, attend, hbegins.see,
    foldl_attend_issue _ _ _ hplain, State.after_sig, hregs]
  rfl

/-! ### The run of a record that decodes -/

theorem startChunk_atRecord : startChunk.1.AtRecord := ⟨rfl, rfl, .inl rfl⟩

theorem provisional_of_mem_record {m : List Byte} (h : p ∈ bodyResponses m ++ quiet 3) : p.Provisional :=
  (List.mem_append.1 h).elim provisional_of_mem_bodyResponses provisional_of_mem_quiet

/-- The answers to `START.CHUNK` and the bytes of a chunk's record, but for the `CHUNK` event at the last. -/
def chunkResponses (c : Chunk) : List Response := .ack .none :: (bodyResponses c.payload ++ quiet 3)

theorem provisional_of_mem_chunkResponses (h : p ∈ chunkResponses c) : p.Provisional :=
  (List.mem_cons.1 h).elim Or.inl provisional_of_mem_record

theorem chunkResponses_length (hc : c.consistent) : (chunkResponses c).length = 12 + c.length.toNat := by
  obtain ⟨hlen, -⟩ := hc
  rw [chunkResponses, List.length_cons, List.length_append, bodyResponses_length, quiet_length, hlen]
  omega

theorem payloadBytes_chunkResponses (c : Chunk) : (chunkResponses c).filterMap Response.payloadByte = c.payload :=
  payloadBytes_bodyResponses c.payload

theorem runScript_chunk_append (m rest : List Byte) :
    runScript .chunk (m ++ rest) = (.startChunk :: pushs m) ++ (pushs rest ++ [.endBuffer]) := by
  rw [runScript, pushs_append, List.append_assoc, List.cons_append]
  rfl

/-- `START.CHUNK` and the bytes of a legal chunk's record lead to the event `CHUNK`. -/
theorem leads_chunkRecord (sig : Config.Signature) (r : Regs) (hc : c.consistent) (hl : c.legalType) :
    Leads sig r (.startChunk :: pushs (encodeChunk c)) (chunkResponses c ++ [.ack .chunk])
      (startChunk.1.afterRecord c) := by
  have hrecord := leads_record (sig := sig) startChunk_atRecord hc hl
  rw [← List.append_assoc] at hrecord
  exact .cons rfl hrecord

/-- What follows the record is refused. -/
theorem leads_chunkRun (sig : Config.Signature) (r : Regs) (hc : c.consistent) (hl : c.legalType) (rest : List Byte) :
    Leads sig r (runScript .chunk (encodeChunk c ++ rest))
      (chunkResponses c ++ .ack .chunk :: List.replicate (pushs rest ++ [Instr.endBuffer]).length .refused)
      (startChunk.1.afterRecord c) := by
  have hrest := leads_resting (sig := sig) (is := pushs rest ++ [.endBuffer]) (r := startChunk.1.afterRecord c) rfl
    fun _ => isStart_of_mem_pushs_end
  have hall := (leads_chunkRecord sig r hc hl).append hrest
  rwa [List.append_assoc, ← runScript_chunk_append] at hall

/-- In `CHUNK` mode the event `CHUNK` commits the chunk (44_container R168). -/
theorem hear_chunkRecord (sig : Config.Signature) (hc : c.consistent) (hl : c.legalType) :
    (commands sig (pushs (encodeChunk c)) startChunk.1).foldl Consumer.hear Consumer.empty =
      Consumer.empty.commit (.ok [c]) := by
  have hrecord := leads_record (sig := sig) startChunk_atRecord hc hl
  rw [← List.append_assoc] at hrecord
  rw [hrecord.hear_last fun _ => provisional_of_mem_record, payloadBytes_bodyResponses, Consumer.hear_chunk_last rfl,
    Consumer.empty, List.nil_append, List.nil_append, Regs.chunkAt_afterRecord]
  rfl

theorem committed_chunkRun (s : State) (hc : c.consistent) (hl : c.legalType) (rest : List Byte) :
    committed (observeRun .chunk (encodeChunk c ++ rest) s) = [.ok [c]] := by
  have hrest : ∀ p ∈ (commands s.sig (pushs rest ++ [.endBuffer]) (startChunk.1.afterRecord c)).map Prod.snd,
      p = .refused := by
    rw [commands_resting rfl fun _ => isStart_of_mem_pushs_end, List.map_replicate]
    exact fun _ => List.eq_of_mem_replicate
  have hstart : (command s.sig Mode.chunk.start s.regs).1 = startChunk.1 := rfl
  rw [committed_observeRun, hstart, pushs_append, List.append_assoc,
    (leads_record startChunk_atRecord hc hl).commands_append, List.foldl_append, hear_chunkRecord s.sig hc hl,
    foldl_hear_refused _ hrest]
  rfl

/-- The machine on a buffer that decodes (R145). -/
theorem chunkRun_state_at_chunkEvent (s : State) (hc : c.consistent) (hl : c.legalType) (rest : List Byte) :
    ∃ t, (run .chunk (encodeChunk c ++ rest) s)[12 + c.length.toNat]? = some t ∧ t.rsp = some (.ack .chunk) ∧
      t.regs = startChunk.1.afterRecord c ∧
      ∀ k u, 12 + c.length.toNat < k → (run .chunk (encodeChunk c ++ rest) s)[k]? = some u →
        u.rsp = some .refused ∧ u.regs = t.regs := by
  have hleads := leads_chunkRecord s.sig s.regs hc hl
  have hwf := runScript_wellFormed .chunk (encodeChunk c ++ rest)
  have hlen : (Instr.startChunk :: pushs (encodeChunk c)).length = 12 + c.length.toNat + 1 := by
    rw [List.length_cons, pushs, List.length_map, encodeChunk_length_of_consistent hc]
  rw [runScript_chunk_append] at hwf
  obtain ⟨t, ht, hregs, hrsp⟩ := hleads.exists_state_at hwf List.getLast?_concat
  rw [hlen, ← runScript_chunk_append] at ht
  refine ⟨t, ht, hrsp, hregs, fun k u hk hu => ?_⟩
  rw [run, runScript_chunk_append] at hu
  rw [hregs]
  exact hleads.refused_after hwf rfl (fun _ => isStart_of_mem_pushs_end) (hlen ▸ hk) hu

theorem outcome_chunkRun (s : State) (hc : c.consistent) (hl : c.legalType) (rest : List Byte) :
    outcome .chunk (run .chunk (encodeChunk c ++ rest) s) = some (.ok ()) :=
  ((leads_chunkRun s.sig s.regs hc hl rest).outcome_eq .chunk (runScript_wellFormed _ _)).trans
    (findSome?_decides_provisional (fun _ => provisional_of_mem_chunkResponses) rfl _)

/-- Up to the `CHUNK` event the payload of the record is passed through, and nothing else. -/
theorem payloadEvents_chunkRun (s : State) (hc : c.consistent) (hl : c.legalType) (rest : List Byte) :
    payloadEvents ((run .chunk (encodeChunk c ++ rest) s).take (12 + c.length.toNat)) = c.payload := by
  refine ((leads_chunkRun s.sig s.regs hc hl rest).payloadEvents_take (runScript_wellFormed _ _) _).trans ?_
  rw [List.take_left' (chunkResponses_length hc), payloadBytes_chunkResponses]

theorem Regs.facets_afterRecord (r : Regs) (c : Chunk) : (r.afterRecord c).facets = c.type.facets := by
  rw [Regs.afterRecord, Regs.afterChecksum]
  split_ifs <;> rfl

/-! ### The run of a record that fails -/

theorem FailsAt.outcome_eq (mode : Mode) (hwf : ∀ i ∈ is, i.wellFormed = true) (h : FailsAt s.sig e n is s.regs) :
    outcome mode (runScriptFrom is s) = some (.error e) := by
  obtain ⟨ps, k, r', -, hps, hleads⟩ := h
  exact (hleads.outcome_eq mode hwf).trans (findSome?_decides_provisional hps rfl _)

/-- The error of commands that fail arrives at the command of their index. -/
theorem FailsAt.exists_state_with_error (hwf : ∀ i ∈ is, i.wellFormed = true) (h : FailsAt s.sig e n is s.regs) :
    ∃ t, (runScriptFrom is s)[n]? = some t ∧ t.rsp = some (.ack (.err e)) := by
  obtain ⟨ps, k, r', rfl, -, hleads⟩ := h
  exact hleads.exists_state_with_rsp hwf (by simp)

/-- A chunk run fails where the record does, one command later for the `START`. -/
theorem FailsAt.chunkRun {r : Regs} (h : FailsAt sig e n (pushs buf ++ [.endBuffer]) startChunk.1) :
    FailsAt sig e (n + 1) (runScript .chunk buf) r := by
  have hstart : Leads sig r [.startChunk] (quiet 1) startChunk.1 := .cons rfl (.nil _)
  exact hstart.failsAt_append (fun _ => provisional_of_mem_quiet) h (Nat.add_comm n 1)

/-- The error's place counted from the `START`, as R145 gives it. -/
theorem ErrorPosition.succ (h : ErrorPosition buf e n) :
    (e = .reservedBitError ∨ e = .invalidByteError) ∧ n + 1 = 8 ∨ e = .framingError ∧ n + 1 = buf.length + 1 ∨
      e = .checksumError ∧
        ∃ l0 l1 l2 l3 r, buf = l0 :: l1 :: l2 :: l3 :: r ∧ n + 1 = 12 + (unbe32 l0 l1 l2 l3).toNat := by
  rcases h with ⟨he, rfl⟩ | ⟨he, rfl⟩ | ⟨he, l, m, rfl, rfl⟩
  · exact .inl ⟨he, rfl⟩
  · exact .inr (.inl ⟨he, rfl⟩)
  · exact .inr (.inr ⟨he, _, _, _, _, m, rfl, by rw [unbe32_be32]; omega⟩)

/-- Settles O51: a buffer that decodes is a chunk's record and what follows (`decodeChunk_ok`), and the record leads to
its `CHUNK` event (`leads_chunkRun`); on any other the machine fails where `decode_chunk` does (`record_failsAt`). -/
theorem chunkRunComputesDecodeChunk : Obligations.ChunkRunComputesDecodeChunk := by
  refine fun s buf => ⟨fun c rest hd => ?_, fun e hd => ?_⟩
  · obtain ⟨rfl, hc, hl⟩ := decodeChunk_ok hd
    obtain ⟨t, ht, hrsp, hregs, hlater⟩ := chunkRun_state_at_chunkEvent s hc hl rest
    refine ⟨outcome_chunkRun s hc hl rest, committed_chunkRun s hc hl rest, t, ht, hrsp,
      payloadEvents_chunkRun s hc hl rest, ?_, ?_, hlater⟩
    · rw [hregs, Regs.chunkAt_afterRecord]
    · rw [hregs, Regs.facets_afterRecord]
  · obtain ⟨n, hn, hfails⟩ := record_failsAt (sig := s.sig) startChunk_atRecord hd nofun
    have hwf := runScript_wellFormed .chunk buf
    obtain ⟨t, ht, hrsp⟩ := hfails.chunkRun.exists_state_with_error hwf
    have hcommitted : committed (observeRun .chunk buf s) = [.error e] := by
      rw [committed_observeRun]
      exact congrArg Consumer.results (hfails.hear Consumer.empty)
    exact ⟨hfails.chunkRun.outcome_eq .chunk hwf, hcommitted, n + 1, t, ht, hrsp, hn.succ⟩

end Sys2Proof.Machine

/-! PROOFS. `decode_container` against `encode_container` (44_container R170), and the machine in `CONT` mode against
both (R160 to R166, R171). -/

namespace Sys2Proof.Machine

variable {sig : Config.Signature} {is js : List Instr} {r r' : Regs} {p : Response} {ps : List Response} {s : State}
  {buf : List Byte} {c : Chunk} {cs : List Chunk} {e e' : ErrorKind} {n n' k : Nat}

/-! ### The round trip -/

/-- After the signature `decode_container` is its loop on the rest (R156). -/
theorem decodeContainer_signature_append (sig : Config.Signature) (m : List Byte) :
    decodeContainer sig (sig.toList ++ m) = decodeRecords m.length m := by
  have hlen : sig.toList.length = 8 := sig.length_toList
  rw [decodeContainer, List.take_left' hlen, if_pos rfl, List.drop_left' hlen]
  exact decodeRecords_bound _ _ m (by simp) le_rfl

/-- Only a buffer that begins with the signature decodes (R157). -/
theorem decodeContainer_ok (h : decodeContainer sig buf = .ok cs) :
    ∃ m, buf = sig.toList ++ m ∧ decodeRecords m.length m = .ok cs := by
  by_cases htake : buf.take 8 = sig.toList
  · have hbuf : buf = sig.toList ++ buf.drop 8 := by rw [← htake, List.take_append_drop]
    rw [hbuf, decodeContainer_signature_append] at h
    exact ⟨_, hbuf, h⟩
  · rw [decodeContainer, if_neg htake] at h
    cases h

/-- The loop gives the chunks of legal records in order and goes on with what follows them. -/
theorem decodeRecords_flatMap_append (hcs : ∀ c ∈ cs, c.consistent ∧ c.legalType) (m : List Byte) :
    decodeRecords (cs.flatMap encodeChunk ++ m).length (cs.flatMap encodeChunk ++ m) =
      (decodeRecords m.length m).map (cs ++ ·) := by
  induction cs with
  | nil => rcases hm : decodeRecords m.length m with e | ds <;> simp [hm, Except.map]
  | cons c cs ih =>
    obtain ⟨⟨hc, hl⟩, hcs⟩ := List.forall_mem_cons.1 hcs
    rw [List.flatMap_cons, List.append_assoc, decodeRecords_of_ok (decodeChunk_encodeChunk hc hl _), ih hcs]
    rcases decodeRecords m.length m with e | ds <;> rfl

/-- Only the records of legal chunks pass the loop, and it gives those chunks. -/
theorem decodeRecords_ok (h : decodeRecords n buf = .ok cs) :
    cs.flatMap encodeChunk = buf ∧ ∀ c ∈ cs, c.consistent ∧ c.legalType := by
  induction n, buf using decodeRecords.induct generalizing cs with
  | case1 n =>
    rw [decodeRecords] at h
    cases h
    exact ⟨rfl, nofun⟩
  | case2 b r => cases h
  | case3 n b r e hd =>
    rw [decodeRecords, hd] at h
    cases h
  | case4 n b r c rest hd e hrest ih =>
    rw [decodeRecords, hd] at h
    simp only [hrest] at h
    cases h
  | case5 n b r c rest hd ds hrest ih =>
    rw [decodeRecords, hd] at h
    simp only [hrest] at h
    cases h
    obtain ⟨hbuf, hc⟩ := decodeChunk_ok hd
    obtain ⟨rfl, hds⟩ := ih hrest
    exact ⟨hbuf.symm, List.forall_mem_cons.2 ⟨hc, hds⟩⟩

/-- Settles O52: both directions are those of the loop behind the signature (`decodeRecords_flatMap_append`,
`decodeRecords_ok`). -/
theorem containerRoundTrip : Obligations.ContainerRoundTrip := by
  refine fun sig => ⟨fun cs hcs => ?_, fun buf cs h => ?_⟩
  · have hloop := decodeRecords_flatMap_append hcs []
    rw [List.append_nil] at hloop
    rw [encodeContainer, decodeContainer_signature_append, hloop]
    exact congrArg Except.ok (List.append_nil cs)
  · obtain ⟨m, rfl, hloop⟩ := decodeContainer_ok h
    obtain ⟨rfl, hcs⟩ := decodeRecords_ok hloop
    exact ⟨rfl, hcs⟩

/-! ### The run of a container -/

/-- Settles O54: what a container run commits (`committed_observeRun_cont`). -/
theorem containerRunComputesDecodeContainer : Obligations.ContainerRunComputesDecodeContainer :=
  fun s buf => committed_observeRun_cont buf s

/-- The records of legal chunks lead from one record boundary of a container to the next. -/
theorem leads_records (hr : r.AtRecord) (hm : r.mode = .cont) (hcs : ∀ c ∈ cs, c.consistent ∧ c.legalType) :
    ∃ ps r', Leads sig r (pushs (cs.flatMap encodeChunk)) ps r' ∧ r'.AtRecord ∧ r'.mode = .cont := by
  induction cs generalizing r with
  | nil => exact ⟨[], r, .nil r, hr, hm⟩
  | cons c cs ih =>
    obtain ⟨⟨hc, hl⟩, hcs⟩ := List.forall_mem_cons.1 hcs
    obtain ⟨hnext, hmode⟩ := Regs.atRecord_afterRecord (r := r) hm c
    obtain ⟨ps, r', hleads, hr', hm'⟩ := ih hnext hmode hcs
    rw [List.flatMap_cons, pushs_append]
    exact ⟨_, r', (leads_record hr hc hl).append hleads, hr', hm'⟩

theorem leads_startCont (sig : Config.Signature) (r : Regs) : Leads sig r [.startCont] (quiet 1) startCont.1 :=
  .cons rfl (.nil _)

/-- `START.CONT` and the bytes of an encoded container lead to a record boundary. -/
theorem leads_container (sig : Config.Signature) (r : Regs) (hcs : ∀ c ∈ cs, c.consistent ∧ c.legalType) :
    ∃ ps r', Leads sig r (.startCont :: pushs (encodeContainer sig cs)) ps r' ∧ r'.AtRecord ∧ r'.mode = .cont := by
  have hsignature := leads_signature (sig := sig) (r := startCont.1) rfl rfl
  obtain ⟨ps, r', hleads, hend⟩ := leads_records (sig := sig) (r := { startCont.1 with phase := .len, cnt := 4 })
    ⟨rfl, rfl, .inr rfl⟩ rfl hcs
  rw [encodeContainer, pushs_append]
  exact ⟨_, r', (leads_startCont sig r).append (hsignature.append hleads), hend⟩

theorem Leads.length_eq (h : Leads sig r is ps r') : ps.length = is.length := by
  induction h with
  | nil => rfl
  | cons _ _ ih => rw [List.length_cons, List.length_cons, ih]

/-! ### Where an error arrives -/

/-- The error of commands that fail arrives at the command of their index, counted from the first of them. -/
theorem FailsAt.rsp_after {r : Regs} (hwf : ∀ i ∈ is ++ js, i.wellFormed = true) (h : Leads s.sig s.regs is ps r)
    (hf : FailsAt s.sig e n js r) :
    ((runScriptFrom (is ++ js) s)[is.length + n]?).map State.rsp = some (some (.ack (.err e))) := by
  obtain ⟨qs, k, r', rfl, -, hleads⟩ := hf
  rw [← List.getElem?_map, (h.append hleads).map_rsp hwf, ← h.length_eq]
  simp

/-- Commands that fail raise one error and no other. -/
theorem FailsAt.unique {t : State} (hwf : ∀ i ∈ is, i.wellFormed = true) (hf : FailsAt s.sig e n is s.regs)
    (ht : (runScriptFrom is s)[k]? = some t) (hrsp : t.rsp = some (.ack (.err e'))) : k = n ∧ e' = e := by
  obtain ⟨ps, j, r', rfl, hps, hleads⟩ := hf
  have hk := congrArg (·[k]?) (hleads.map_rsp hwf)
  simp only [List.getElem?_map, ht, Option.map_some, hrsp] at hk
  obtain ⟨p, hp, heq⟩ := Option.map_eq_some_iff.1 hk.symm
  obtain rfl := Option.some.inj heq
  rcases Nat.lt_trichotomy k ps.length with hlt | rfl | hgt
  · rw [List.getElem?_append_left hlt] at hp
    rcases hps _ (List.mem_of_getElem? hp) with h | ⟨b, h⟩ <;> cases h
  · simpa using hp.symm
  · obtain ⟨i, rfl⟩ := Nat.exists_eq_add_of_lt hgt
    rw [Nat.add_assoc, List.getElem?_append_right (Nat.le_add_right _ _), Nat.add_sub_cancel_left,
      List.getElem?_cons_succ] at hp
    cases List.eq_of_mem_replicate (List.mem_of_getElem? hp)

theorem be32_injective : Function.Injective be32 := by
  intro v w h
  simp only [be32, List.cons.injEq] at h
  obtain ⟨h0, h1, h2, h3, -⟩ := h
  rw [← unbe32_be32 v, h0, h1, h2, h3, unbe32_be32]

/-- Where a record fails follows from its bytes and its error. -/
theorem ErrorPosition.unique (h : ErrorPosition buf e n) (h' : ErrorPosition buf e n') : n = n' := by
  rcases h with ⟨he, rfl⟩ | ⟨rfl, rfl⟩ | ⟨rfl, l, m, rfl, rfl⟩
  · rcases h' with ⟨-, rfl⟩ | ⟨rfl, -⟩ | ⟨rfl, -⟩
    · rfl
    · exact absurd he (by decide)
    · exact absurd he (by decide)
  · rcases h' with ⟨he, -⟩ | ⟨-, rfl⟩ | ⟨he, -⟩
    · exact absurd he (by decide)
    · rfl
    · cases he
  · rcases h' with ⟨he, -⟩ | ⟨he, -⟩ | ⟨-, l', m', hbuf, rfl⟩
    · exact absurd he (by decide)
    · cases he
    · rw [be32_injective (List.append_inj_left hbuf rfl)]

/-- Bytes that follow `START.CONT` and fail at byte `n` from there fail in a container run one command later. -/
theorem FailsAt.contRun (hf : FailsAt s.sig e n (pushs buf ++ [.endBuffer]) startCont.1) :
    ((run .cont buf s)[n + 1]?).map State.rsp = some (some (.ack (.err e))) := by
  rw [Nat.add_comm]
  exact hf.rsp_after (runScript_wellFormed .cont buf) (leads_startCont s.sig s.regs)

/-- A container run whose bytes leave the signature at byte `k` fails there, as does one whose bytes end there (R161,
R162). -/
theorem contRun_signatureError (s : State) (hk : k < 8) {tail : List Byte} (htail : tail.head? ≠ some s.sig[k]) :
    ((run .cont (s.sig.toList.take k ++ tail) s)[k + 1]?).map State.rsp =
      some (some (.ack (.err .signatureError))) := by
  have hlen : s.sig.toList.length = 8 := s.sig.length_toList
  have hsplit : s.sig.toList.take k ++ s.sig[k] :: s.sig.toList.drop (k + 1) = s.sig.toList := by
    rw [← Vector.getElem_toList (hlen.symm ▸ hk), List.cons_getElem_drop_succ, List.take_append_drop]
  have hawaits : startCont.1.AwaitsSignature s.sig (s.sig.toList.take k ++ s.sig[k] :: s.sig.toList.drop (k + 1)) :=
    ⟨rfl, by rw [hsplit, hlen]; rfl, by rw [hsplit]⟩
  have hfails := signature_failsAt hawaits htail
  rw [List.length_take_of_le (by omega)] at hfails
  exact hfails.contRun

/-- The error of a chunk run is that of `decode_chunk`, at the record's own place behind the `START`
(43_chunk_framer R145). -/
theorem decodeChunk_of_chunkRun_error {t : State} (ht : (run .chunk buf s)[k]? = some t)
    (hrsp : t.rsp = some (.ack (.err e))) :
    ∃ n, k = n + 1 ∧ decodeChunk buf = .error e ∧ ErrorPosition buf e n := by
  have hwf := runScript_wellFormed .chunk buf
  rcases hd : decodeChunk buf with e' | ⟨c, rest⟩
  · obtain ⟨n, hn, hfails⟩ := record_failsAt (sig := s.sig) startChunk_atRecord hd nofun
    obtain ⟨rfl, rfl⟩ := hfails.chunkRun.unique hwf ht hrsp
    exact ⟨n, rfl, rfl, hn⟩
  · obtain ⟨rfl, hc, hl⟩ := decodeChunk_ok hd
    obtain ⟨o, ho, honly⟩ := everyRunHasExactlyOneOutcome .chunk (encodeChunk c ++ rest) s
    have herr := honly t (List.mem_of_getElem? ht) (.error e) (by rw [hrsp]; rfl)
    rw [outcome_chunkRun s hc hl rest, ← herr] at ho
    cases ho

/-- Settles O55: the signature fails where the buffer leaves it (`contRun_signatureError`), a record where its own
bytes do (`record_failsAt`, `ErrorPosition.unique`), in a container as in `CHUNK` mode. -/
theorem containerErrorsArriveAtTheDefect : Obligations.ContainerErrorsArriveAtTheDefect := by
  refine fun s => ⟨fun k b rest hk hb => ?_, fun k hk => ?_, fun cs bad k e t hcs hbad ht hrsp => ?_⟩
  · exact contRun_signatureError s hk fun h => hb (Option.some.inj h)
  · have hend := contRun_signatureError s hk (tail := []) nofun
    rwa [List.append_nil] at hend
  · obtain ⟨n, rfl, hd, hn⟩ := decodeChunk_of_chunkRun_error ht hrsp
    obtain ⟨ps, r, hleads, hr, -⟩ := leads_container s.sig s.regs hcs
    obtain ⟨n', hn', hfails⟩ := record_failsAt (sig := s.sig) hr hd fun _ => hbad
    obtain rfl := hn.unique hn'
    have hscript : runScript .cont (encodeContainer s.sig cs ++ bad) =
        (.startCont :: pushs (encodeContainer s.sig cs)) ++ (pushs bad ++ [.endBuffer]) := by
      rw [runScript, pushs_append, List.append_assoc]; rfl
    have hwf := runScript_wellFormed .cont (encodeContainer s.sig cs ++ bad)
    rw [hscript] at hwf
    have herr := hfails.rsp_after hwf hleads
    rw [← hscript, List.length_cons, pushs, List.length_map, Nat.add_assoc, Nat.add_comm 1] at herr
    exact herr

/-! ### One command -/

/-- Settles O16: the cases of `PUSH` in phase `SIG`. -/
theorem pushInSigComparesOneByte : Obligations.PushInSigComparesOneByte := by
  refine ⟨fun s b i hp hcnt => ?_, fun s hsig => ?_⟩
  · have hexpected : expectedSigByte s.sig s.regs.cnt = some s.sig[i.val] := by
      rw [expectedSigByte_eq _ _ (by omega) (by omega), hcnt, show 8 - (8 - i.val) = i.val by omega]
      exact Vector.getElem?_eq_getElem i.isLt
    have hlast : s.regs.cnt - 1 = 0 ↔ i.val = 7 := by
      rw [cnt_pred_eq_zero_iff]
      omega
    refine ⟨fun hb hi => ?_, fun hb hi => ?_, fun hb => ?_⟩
    · rw [exec_push, PushCase.push_eq (.sigMore hp (hb ▸ hexpected) (mt hlast.1 hi.ne))]
    · rw [exec_push, PushCase.push_eq (.sigLast hp (hb ▸ hexpected) (hlast.2 hi))]
    · rw [exec_push, push_sigWrong hp fun h => hb (Option.some.inj (hexpected.symm.trans h)).symm]
  · have hfirst : expectedSigByte s.sig 8 = some 0x89 := by rw [hsig]; decide
    have hleads : Leads s.sig s.regs [.startCont, .push 0x89] _ _ :=
      .cons rfl (.push (.sigMore rfl hfirst (by decide)) (.nil _))
    obtain ⟨t, ht, hregs, -⟩ := hleads.exists_last_state (wellFormed_start_pushs .cont [0x89]) rfl
    exact ⟨t, ht, by rw [hregs]; rfl, by rw [hregs]⟩

/-- An `END` answers what its case says. -/
theorem EndCase.exec_eq {a : Regs × Response} (h : EndCase s.regs a) :
    exec .endBuffer s = .next { s with regs := a.1, rsp := some a.2 } := by
  rw [exec_eq_answer, State.answer_eq, command, h.endBuffer_eq]

/-- Settles O22: the case of `END` where the buffer may end. -/
theorem endCompletesAtABoundary : Obligations.EndCompletesAtABoundary :=
  fun _ h => EndCase.exec_eq (.complete h)

/-- Settles O24: the case of `END` inside the signature. -/
theorem endInsideTheSignatureIsASignatureError : Obligations.EndInsideTheSignatureIsASignatureError :=
  fun _ hp => EndCase.exec_eq (.inSignature hp)

end Sys2Proof.Machine

/-! PROOFS. The list operations of a container (45_software_context R180 to R182). -/

namespace Sys2Proof.Machine.Software

variable {cs pre post : Container} {c : Chunk} {name : List Char}

/-! ### No chunk of the type -/

theorem remove_of_forall_not_hasTypeName (hcs : ∀ d ∈ cs, hasTypeName name d = false) :
    remove cs name = .error .notFoundError := by
  have hany : ¬ cs.any (hasTypeName name) = true := by simpa using hcs
  rw [remove, if_neg hany]

theorem findByType_of_forall_not_hasTypeName (hcs : ∀ d ∈ cs, hasTypeName name d = false) :
    findByType cs name = none :=
  List.find?_eq_none.2 fun d hd => Bool.eq_false_iff.1 (hcs d hd)

/-! ### A first chunk of the type -/

theorem remove_append_cons (hpre : ∀ d ∈ pre, hasTypeName name d = false) (hc : hasTypeName name c = true) :
    remove (pre ++ c :: post) name = .ok (pre ++ post) := by
  have hany : (pre ++ c :: post).any (hasTypeName name) = true :=
    List.any_of_mem List.mem_append_cons_self hc
  have hskip : ∀ d ∈ pre, ¬ hasTypeName name d = true := fun d hd => Bool.eq_false_iff.1 (hpre d hd)
  rw [remove, if_pos hany, List.eraseP_append_right _ hskip, List.eraseP_cons_of_pos hc]

theorem findByType_append_cons (hpre : ∀ d ∈ pre, hasTypeName name d = false) (hc : hasTypeName name c = true) :
    findByType (pre ++ c :: post) name = some c := by
  have hskip : pre.find? (hasTypeName name) = none := findByType_of_forall_not_hasTypeName hpre
  rw [findByType, List.find?_append, hskip, Option.none_or, List.find?_cons_of_pos hc]

/-- Settles O57: the chunks before the first of its type are passed over (`remove_append_cons`,
`findByType_append_cons`), and without one there is nothing to take
(`remove_of_forall_not_hasTypeName`, `findByType_of_forall_not_hasTypeName`). -/
theorem removeTakesTheFirstOfItsType : Obligations.RemoveTakesTheFirstOfItsType :=
  fun _ _ _ _ hpre => ⟨fun hc => ⟨remove_append_cons hpre hc, findByType_append_cons hpre hc⟩,
    remove_of_forall_not_hasTypeName hpre, findByType_of_forall_not_hasTypeName hpre⟩

end Sys2Proof.Machine.Software

/-! PROOFS. The source's end-to-end scenario (45_software_context R193). -/

namespace Sys2Proof.Machine

variable {sig : Config.Signature} {t : TypeTag} {p : List Byte} {c : Chunk}

/-- A chunk created with a legal tag survives encoding and decoding in a container of its own (R142, R170). -/
theorem decodeContainer_encodeContainer_createChunk (ht : tagCheck t = .ok ()) (h : createChunk t p = some c) :
    decodeContainer sig (encodeContainer sig [c]) = .ok [c] := by
  obtain ⟨rfl, hconsistent⟩ := createChunk_spec h
  exact (containerRoundTrip sig).1 [c] (List.forall_mem_singleton.2 ⟨hconsistent, ht⟩)

/-- The chunk of the scenario: type `"teXt"`, payload `"hello"`, and their checksum (R193). -/
def helloChunk : Chunk :=
  { length := 5, type := ⟨0x74, 0x65, 0x58, 0x74⟩, payload := [0x68, 0x65, 0x6C, 0x6C, 0x6F], checksum := 0xA3F69134 }

theorem createChunk_hello : createChunk helloChunk.type helloChunk.payload = some helloChunk := by decide +kernel

theorem tagCheck_helloChunk : tagCheck helloChunk.type = .ok () := by decide

theorem hasTypeName_helloChunk : Software.hasTypeName ['t', 'e', 'X', 't'] helloChunk = true := by decide +kernel

theorem payloadAsText_helloChunk : Software.payloadAsText helloChunk = .ok ['h', 'e', 'l', 'l', 'o'] := by decide

theorem encodeChunk_helloChunk :
    encodeChunk helloChunk =
      be32 5 ++ [0x74, 0x65, 0x58, 0x74, 0x68, 0x65, 0x6C, 0x6C, 0x6F] ++ [0xA3, 0xF6, 0x91, 0x34] := by decide

/-- Settles O56: the chunk is `helloChunk`; its container decodes because its tag is legal
(`decodeContainer_encodeContainer_createChunk`), on the machine because that computes the function (O54). -/
theorem endToEndScenario : Obligations.EndToEndScenario := by
  intro s c h
  obtain rfl : helloChunk = c := Option.some.inj (createChunk_hello.symm.trans h)
  have hdecode := decodeContainer_encodeContainer_createChunk (sig := s.sig) tagCheck_helloChunk createChunk_hello
  have hmachine : committed (observeRun .cont (encodeContainer s.sig [helloChunk]) s) = [.ok [helloChunk]] := by
    rw [containerRunComputesDecodeContainer, hdecode]
  have hfind : Software.findByType [helloChunk] ['t', 'e', 'X', 't'] = some helloChunk :=
    Software.findByType_append_cons (pre := []) nofun hasTypeName_helloChunk
  have hencode : encodeContainer s.sig [helloChunk] = s.sig.toList ++ encodeChunk helloChunk := by
    rw [encodeContainer, List.flatMap_singleton]
  refine ⟨rfl, hdecode, hmachine, hfind, payloadAsText_helloChunk, ?_⟩
  rw [Software.encode, hencode, encodeChunk_helloChunk]
  simp only [List.append_assoc]

end Sys2Proof.Machine

/-! PROOFS. What ends phase `ERR` and which defect is reported (60_exceptions R203, R205). -/

namespace Sys2Proof.Machine

variable {sig : Config.Signature} {l : Word} {t : TypeTag} {m buf bad : List Byte} {cs : List Chunk} {e : ErrorKind}

/-! ### The way out of phase `ERR` -/

/-- Settles O34: without a command nothing changes, and in a resting phase every command but `START` is refused
(`command_resting`). -/
theorem onlyStartAndResetLeaveTheErrorPhase : Obligations.OnlyStartAndResetLeaveTheErrorPhase := by
  intro s t hp h
  rcases step_cases h with ⟨rfl, -⟩ | ⟨-, hreset⟩ | ⟨w, rest, hin, rfl⟩
  · exact .inl rfl
  · exact .inr (.inl hreset)
  · rcases hstart : isStart (decode w) with _ | _
    · have hrest : s.regs.phase.isActive = false := by rw [hp]; rfl
      exact .inl (congrArg Prod.fst (command_resting hrest hstart))
    · exact .inr (.inr ⟨w, rest, hin, hstart⟩)

/-! ### The earliest defect -/

/-- A legal tag followed by fewer bytes than the declared payload and a checksum (43_chunk_framer R127, R129). -/
theorem decodeChunk_of_cutShort (ht : tagCheck t = .ok ()) (h : m.length < l.toNat + 4) :
    decodeChunk (be32 l ++ (t.bytes ++ m)) = .error .framingError := by
  rcases Nat.lt_or_ge m.length l.toNat with hpayload | hpayload
  · rw [decodeChunk_eq_decodeBody, decodeBody, ht]
    exact if_pos hpayload
  · have hchecksum : (m.drop l.toNat).length < 4 := by rw [List.length_drop]; omega
    rw [← List.take_append_drop l.toNat m, decodeChunk_of_legal ht (List.length_take_of_le hpayload),
      decodeChecksum_of_short hchecksum]

/-- The signature is read before any record (44_container R157). -/
theorem decodeContainer_of_not_signature_prefix (h : ¬ sig.toList <+: buf) :
    decodeContainer sig buf = .error .signatureError :=
  if_neg fun htake : buf.take 8 = sig.toList => h (htake ▸ List.take_prefix 8 buf)

/-- Whole records of legal chunks pass, and the first record that fails decides (44_container R159). -/
theorem decodeContainer_of_bad_record (hcs : ∀ c ∈ cs, c.consistent ∧ c.legalType) (hbad : bad ≠ [])
    (hd : decodeChunk bad = .error e) : decodeContainer sig (encodeContainer sig cs ++ bad) = .error e := by
  rw [encodeContainer, List.append_assoc, decodeContainer_signature_append, decodeRecords_flatMap_append hcs,
    decodeRecords_of_error hbad hd]
  rfl

/-- Settles O53: each clause is the lemma about its own defect, the length field read as one word (`be32_unbe32`). -/
theorem theEarliestDefectDecides : Obligations.TheEarliestDefectDecides := by
  refine ⟨fun l0 l1 l2 l3 t r hlow => ?_, fun l0 l1 l2 l3 t r hup hnot => ?_, fun _ => decodeChunk_of_short,
    fun l0 l1 l2 l3 t r ht hr => ?_, fun l0 l1 l2 l3 c0 c1 c2 c3 t p rest ht hp hs => ?_,
    fun _ _ => decodeContainer_of_not_signature_prefix, fun _ _ _ _ => decodeContainer_of_bad_record⟩
  · rw [← be32_unbe32, List.append_assoc]
    exact decodeChunk_of_illegal ((tagCheck_error_iff t _).2 (.inl ⟨rfl, hlow⟩))
  · rw [← be32_unbe32, List.append_assoc]
    exact decodeChunk_of_illegal ((tagCheck_error_iff t _).2 (.inr ⟨rfl, hup, hnot⟩))
  · rw [← be32_unbe32, List.append_assoc]
    exact decodeChunk_of_cutShort ht hr
  · rw [← be32_unbe32 l0, ← be32_unbe32 c0]
    simp only [List.append_assoc]
    exact decodeChunk_of_wrongChecksum ht hp hs

end Sys2Proof.Machine

/-! PROOFS. Reset, and what the consumer does at each step (70_reset R220, R225, 44_container R168). -/

namespace Sys2Proof.Machine

variable {sig : Config.Signature} {i : Instr} {r : Regs} {c : Consumer} {t : State} {b : Byte} {e : ErrorKind}

/-! ### Reset -/

/-- Only reset leads to `IDLE`: an accepted command leaves it, a refused one keeps `PHASE`. -/
theorem command_keeps_phase_ne_idle (hp : r.phase ≠ .idle) : (command sig i r).1.phase ≠ .idle := by
  rcases hrsp : (command sig i r).2 with e | _
  · exact command_phase_ne_idle hrsp
  · rwa [command_of_refused hrsp]

/-- Settles O7: reset is `applyReset` whatever the command port carries, and a command does not reach `IDLE`
(`command_keeps_phase_ne_idle`). -/
theorem resetOverridesCommandsAndSetsControlRegisters :
    Obligations.ResetOverridesCommandsAndSetsControlRegisters := by
  refine ⟨fun s cmd rest hin => ?_, fun i s t h hp => ?_, rfl, rfl, rfl, rfl⟩
  · exact ⟨_, (step_cons hin).trans (stepOn_reset cmd _), rfl, rfl, rfl, rfl, rfl, rfl⟩
  · obtain rfl := exec_next h
    exact command_keeps_phase_ne_idle hp

/-! ### What the consumer makes of each response -/

theorem Consumer.seeResponse_payload (h : t.rsp = some (.ack (.payload b))) :
    c.seeResponse t = { c with payload := c.payload ++ [b] } := by rw [seeResponse, h]

theorem Consumer.seeResponse_done (h : t.rsp = some (.ack .done)) : c.seeResponse t = c.commit (.ok c.chunks) := by
  rw [seeResponse, h]

theorem Consumer.seeResponse_err (h : t.rsp = some (.ack (.err e))) : c.seeResponse t = c.commit (.error e) := by
  rw [seeResponse, h]

/-- Outside `CHUNK` mode a verified record is held back with those before it (44_container R168). -/
theorem Consumer.seeResponse_chunk_held (h : t.rsp = some (.ack .chunk)) (hm : t.regs.mode ≠ .chunk) :
    c.seeResponse t = c.addChunk (chunkAt t.regs c.payload) := by
  rw [seeResponse, h]
  exact if_neg hm

/-- In `CHUNK` mode the verified record is the whole operation and is committed. -/
theorem Consumer.seeResponse_chunk_committed (h : t.rsp = some (.ack .chunk)) (hm : t.regs.mode = .chunk) :
    c.seeResponse t =
      (c.addChunk (chunkAt t.regs c.payload)).commit (.ok (c.chunks ++ [chunkAt t.regs c.payload])) := by
  rw [seeResponse, h]
  exact if_pos hm

/-! ### When the consumer commits -/

/-- The response ends the operation: `DONE`, `ERR`, or in `CHUNK` mode the `CHUNK` event (44_container R168). -/
def State.EndsOperation (t : State) : Prop :=
  isFinal t.rsp = true ∨ (t.rsp = some (.ack .chunk) ∧ t.regs.mode = .chunk)

/-- A response that changes the results ends the operation, and the consumer commits. -/
theorem Consumer.seeResponse_keeps_or_commits (c : Consumer) (t : State) :
    (c.seeResponse t).results = c.results ∨ (t.EndsOperation ∧ ∃ d res, c.seeResponse t = Consumer.commit d res) := by
  rcases hrsp : t.rsp with _ | (_ | b | _ | _ | e) | _
  case some.ack.payload => exact .inl (by rw [seeResponse_payload hrsp])
  case some.ack.chunk =>
    by_cases hm : t.regs.mode = .chunk
    · exact .inr ⟨.inr ⟨hrsp, hm⟩, _, _, seeResponse_chunk_committed hrsp hm⟩
    · exact .inl (by rw [seeResponse_chunk_held hrsp hm, addChunk_results])
  case some.ack.done => exact .inr ⟨.inl (by rw [hrsp]; rfl), _, _, seeResponse_done hrsp⟩
  case some.ack.err => exact .inr ⟨.inl (by rw [hrsp]; rfl), _, _, seeResponse_err hrsp⟩
  all_goals exact .inl (by rw [seeResponse, hrsp])

/-- Reset, `START` and a step without a command commit nothing. -/
theorem Consumer.see_keeps_or_commits (c : Consumer) (o : Input × State) :
    (c.see o).results = c.results ∨ (o.2.EndsOperation ∧ ∃ d res, c.see o = Consumer.commit d res) := by
  obtain ⟨⟨_ | _, _ | w⟩, t⟩ := o
  · exact .inl rfl
  · rcases hstart : isStart (decode w) with _ | _
    · rw [see_command c t w hstart]
      exact c.seeResponse_keeps_or_commits t
    · exact .inl (by rw [see_start c t w hstart, discard_results])
  · exact .inl rfl
  · exact .inl rfl

/-- Settles O59: a step keeps the results or commits (`see_keeps_or_commits`), reset and `START` discard, and each
response has its own lemma. -/
theorem provisionalEventsAreHeldBackAndDiscarded : Obligations.ProvisionalEventsAreHeldBackAndDiscarded := by
  refine ⟨fun c o hne => ?_, fun c o hne => ?_, fun c t cmd => c.see_reset t cmd, fun c t w => c.see_start t w,
    fun c t w b hw h => ?_, fun c t w hw h => ⟨fun hm => ?_, fun hm => ?_⟩, fun c t w hw h => ?_,
    fun c t w e hw h => ?_⟩
  · exact ((c.see_keeps_or_commits o).resolve_left hne).1
  · obtain ⟨-, d, res, heq⟩ := (c.see_keeps_or_commits o).resolve_left hne
    rw [heq]
    exact ⟨rfl, rfl⟩
  all_goals rw [Consumer.see_command c t w hw]
  · exact Consumer.seeResponse_payload h
  · exact Consumer.seeResponse_chunk_held h hm
  · exact Consumer.seeResponse_chunk_committed h hm
  · exact Consumer.seeResponse_done h
  · exact Consumer.seeResponse_err h

end Sys2Proof.Machine
